-- ==== Sys2Proof/Word.lean ====
section
/-! DEFINITION. The word types of AESCORE: a byte, a 32-bit word, a 16-byte block (spec 00_scope.md R14, R17).
A word's LEADING byte is its most significant one (20_memory.md R52). -/

namespace Sys2Proof

/-- An unsigned 8-bit value (R14). -/
abbrev Byte := BitVec 8

/-- A 32-bit word; its leading byte is the most significant (R14, R52). -/
abbrev Word := BitVec 32

/-- A block of 16 bytes, block byte 0 first (R51). -/
abbrev Block := Vector Byte 16

end Sys2Proof
end

