-- ==== Sys2Proof/Machine/Bytes.lean ====
section
/-! DEFINITION. Byte order (20_memory.md R50 to R54): words, blocks and byte strings, and exclusive-or of blocks. -/

namespace Sys2Proof

/-- The word `[b0, b1, b2, b3]`, b0 leading: b0 * 2^24 + b1 * 2^16 + b2 * 2^8 + b3 (R52). -/
def wordOfBytes (b0 b1 b2 b3 : Byte) : Word := b0 ++ b1 ++ b2 ++ b3

/-- Byte `k` of a word, `k` = 0 the leading byte (R14 `W[i][k]`, R52). -/
def wordByte (w : Word) (k : Nat) : Byte := w.extractLsb' (8 * (3 - k)) 8

/-- A word as a byte string, leading byte first (R52, R54). -/
def wordBytes (w : Word) : List Byte := [wordByte w 0, wordByte w 1, wordByte w 2, wordByte w 3]

/-- A one-byte length or count field (R72, R76). -/
def byteOfNat (n : Nat) : Byte := BitVec.ofNat 8 n

/-- The block with the bytes of `l`, block byte 0 first (R51). Used on strings of exactly 16 bytes. -/
def blockOfBytes (l : List Byte) : Block := Vector.ofFn fun k => l.getD k.val 0

/-- A block as a byte string, block byte 0 first (R51, R76). -/
def blockBytes (b : Block) : List Byte := b.toList

/-- `x ^ y` on two blocks, byte k with byte k (R14, 45_padding_cbc.md). -/
def xorBlock (x y : Block) : Block := Vector.ofFn fun k => x[k] ^^^ y[k]

end Sys2Proof
end

