-- ==== Sys2Proof/Syntax.lean ====
section
/-! DEFINITION. The 32 commands of the opcode map (30_encoding.md R80), one constructor per row of
spec/opcode_table.json. An operand byte string (block, tail or key) is kept with the length it was sent with:
a wrong length is a well-framed request that the command itself answers (R74, R95). -/

namespace Sys2Proof

/-- A command with its operands (R72, R80). -/
inductive Instr where
  /-- 0x01 GFMUL, format B2 (R101) -/
  | gfmul (a b : Byte)
  /-- 0x02 SBOX, format B1 (R110) -/
  | sbox (a : Byte)
  /-- 0x03 ISBOX, format B1 (R111) -/
  | isbox (a : Byte)
  /-- 0x04 ROTW, format WD (R115) -/
  | rotw (w : Word)
  /-- 0x05 SUBW, format WD (R113) -/
  | subw (w : Word)
  /-- 0x06 RCON, format B1 (R105) -/
  | rcon (j : Byte)
  /-- 0x10 SUBB, format L, block (R132) -/
  | subb (data : List Byte)
  /-- 0x11 ISUBB, format L, block (R133) -/
  | isubb (data : List Byte)
  /-- 0x12 SHROWS, format L, block (R135) -/
  | shrows (data : List Byte)
  /-- 0x13 ISHROWS, format L, block (R136) -/
  | ishrows (data : List Byte)
  /-- 0x14 MIXCOL, format L, block (R138) -/
  | mixcol (data : List Byte)
  /-- 0x15 IMIXCOL, format L, block (R139) -/
  | imixcol (data : List Byte)
  /-- 0x16 ADDRK, format RL, round number and block (R141) -/
  | addrk (rk : Byte) (data : List Byte)
  /-- 0x17 INC32, format L, block (R181) -/
  | inc32 (data : List Byte)
  /-- 0x18 PAD, format L, tail (R162) -/
  | pad (data : List Byte)
  /-- 0x19 UNPAD, format L, block (R163) -/
  | unpad (data : List Byte)
  /-- 0x20 KEYEXP, format L, key (R120) -/
  | keyexp (key : List Byte)
  /-- 0x21 RDRK, format B1 (R124) -/
  | rdrk (i : Byte)
  /-- 0x30 ENCBLK, format L, block (R152) -/
  | encblk (data : List Byte)
  /-- 0x31 DECBLK, format L, block (R153) -/
  | decblk (data : List Byte)
  /-- 0x40 CBCINIT, format L, block (R165) -/
  | cbcinit (iv : List Byte)
  /-- 0x41 CBCENCB, format L, block (R166) -/
  | cbcencb (data : List Byte)
  /-- 0x42 CBCENCF, format L, tail (R167) -/
  | cbcencf (data : List Byte)
  /-- 0x43 CBCDECB, format L, block (R168) -/
  | cbcdecb (data : List Byte)
  /-- 0x44 CBCDECF, format L, block (R169) -/
  | cbcdecf (data : List Byte)
  /-- 0x45 RDCV, format Z (R170) -/
  | rdcv
  /-- 0x50 CTRINIT, format L, block (R182) -/
  | ctrinit (ctr : List Byte)
  /-- 0x51 CTRENCB, format L, block (R183) -/
  | ctrencb (data : List Byte)
  /-- 0x52 CTRENCF, format L, tail (R185) -/
  | ctrencf (data : List Byte)
  /-- 0x53 CTRDECB, format L, block (R184) -/
  | ctrdecb (data : List Byte)
  /-- 0x54 CTRDECF, format L, block (R186) -/
  | ctrdecf (data : List Byte)
  /-- 0x55 RDCTR, format Z (R187) -/
  | rdctr
  deriving DecidableEq, Repr

end Sys2Proof
end

