-- ==== Sys2Proof/WellFormed.lean ====
section
/-! DEFINITION. Which commands can be written as a request: the operand string's length must fit the one length
byte of formats L and RL (30_encoding.md R72). A length that is illegal for the opcode is still well-formed (R74, R95). -/

namespace Sys2Proof

/-- The length of an operand string fits its length byte (R72). What `encode` makes of a longer string, of which the
spec says nothing, is the model's choice (log 8). -/
def operandFits (data : List Byte) : Bool := data.length ≤ 255

/-- The command has a request. -/
def Instr.wellFormed : Instr → Bool
  | .gfmul _ _ => true
  | .sbox _ => true
  | .isbox _ => true
  | .rotw _ => true
  | .subw _ => true
  | .rcon _ => true
  | .subb data => operandFits data
  | .isubb data => operandFits data
  | .shrows data => operandFits data
  | .ishrows data => operandFits data
  | .mixcol data => operandFits data
  | .imixcol data => operandFits data
  | .addrk _ data => operandFits data
  | .inc32 data => operandFits data
  | .pad data => operandFits data
  | .unpad data => operandFits data
  | .keyexp key => operandFits key
  | .rdrk _ => true
  | .encblk data => operandFits data
  | .decblk data => operandFits data
  | .cbcinit iv => operandFits iv
  | .cbcencb data => operandFits data
  | .cbcencf data => operandFits data
  | .cbcdecb data => operandFits data
  | .cbcdecf data => operandFits data
  | .rdcv => true
  | .ctrinit ctr => operandFits ctr
  | .ctrencb data => operandFits data
  | .ctrencf data => operandFits data
  | .ctrdecb data => operandFits data
  | .ctrdecf data => operandFits data
  | .rdctr => true

end Sys2Proof
end

