-- ==== Sys2Proof/Decode.lean ====
section
/-! DEFINITION. The request decoder, total on every byte string (30_encoding.md R71 to R75, R80, R90), and after it
the encoder. The decoder checks opcode and framing only (checks 1 and 2 of 60_exceptions.md R208); whether a
well-framed length or operand value is legal is the command's own check. -/

namespace Sys2Proof

/-- Why a byte string is no command. Every reject is answered with status IllegalCommand (R71, R73, R90, R205). -/
inductive Reject where
  /-- length 0: there is no opcode (R71) -/
  | emptyRequest
  /-- byte 0 is not in the opcode map (R90) -/
  | unknownOpcode
  /-- the total length is not the one the format gives (R73) -/
  | badFraming
  deriving DecidableEq, Repr

/-- The six request formats (R72), each with the command its operands make. -/
inductive Shape where
  /-- op -/
  | z (i : Instr)
  /-- op, a -/
  | b1 (f : Byte → Instr)
  /-- op, a, b -/
  | b2 (f : Byte → Byte → Instr)
  /-- op, then the four bytes of a word, leading byte first -/
  | wd (f : Word → Instr)
  /-- op, len, then len bytes -/
  | l (f : List Byte → Instr)
  /-- op, rk, len, then len bytes -/
  | rl (f : Byte → List Byte → Instr)

/-- The opcode map, whole (R80). -/
def opcodeMap : List (Byte × Shape) :=
  [(0x01, .b2 .gfmul), (0x02, .b1 .sbox), (0x03, .b1 .isbox), (0x04, .wd .rotw),
   (0x05, .wd .subw), (0x06, .b1 .rcon),
   (0x10, .l .subb), (0x11, .l .isubb), (0x12, .l .shrows), (0x13, .l .ishrows),
   (0x14, .l .mixcol), (0x15, .l .imixcol), (0x16, .rl .addrk), (0x17, .l .inc32),
   (0x18, .l .pad), (0x19, .l .unpad),
   (0x20, .l .keyexp), (0x21, .b1 .rdrk),
   (0x30, .l .encblk), (0x31, .l .decblk),
   (0x40, .l .cbcinit), (0x41, .l .cbcencb), (0x42, .l .cbcencf), (0x43, .l .cbcdecb),
   (0x44, .l .cbcdecf), (0x45, .z .rdcv),
   (0x50, .l .ctrinit), (0x51, .l .ctrencb), (0x52, .l .ctrencf), (0x53, .l .ctrdecb),
   (0x54, .l .ctrdecf), (0x55, .z .rdctr)]

/-- The row of an opcode, if it has one; the opcode alone selects the format (R71, R75). -/
def shapeOf (op : Byte) : Option Shape := opcodeMap.lookup op

/-- Reads the operands of a format, refusing a request of another total length (R72, R73). -/
def readOperands : Shape → List Byte → Except Reject Instr
  | .z i, operands =>
    match operands with
    | [] => .ok i
    | _ => .error .badFraming
  | .b1 f, operands =>
    match operands with
    | [a] => .ok (f a)
    | _ => .error .badFraming
  | .b2 f, operands =>
    match operands with
    | [a, b] => .ok (f a b)
    | _ => .error .badFraming
  | .wd f, operands =>
    match operands with
    | [b0, b1, b2, b3] => .ok (f (wordOfBytes b0 b1 b2 b3))
    | _ => .error .badFraming
  | .l f, operands =>
    match operands with
    | len :: data => if data.length = len.toNat then .ok (f data) else .error .badFraming
    | [] => .error .badFraming
  | .rl f, operands =>
    match operands with
    | rk :: len :: data => if data.length = len.toNat then .ok (f rk data) else .error .badFraming
    | _ => .error .badFraming

/-- The decoder: opcode, then framing (R73, R75, R208). -/
def decode : List Byte → Except Reject Instr
  | [] => .error .emptyRequest
  | op :: operands =>
    match shapeOf op with
    | none => .error .unknownOpcode
    | some shape => readOperands shape operands

/-- The total length a format gives a request whose byte 1 and byte 2 are as said (R73). -/
def totalLength (shape : Shape) (byte1 byte2 : Byte) : Nat :=
  match shape with
  | .z _ => 1
  | .b1 _ => 2
  | .b2 _ => 3
  | .wd _ => 5
  | .l _ => 2 + byte1.toNat
  | .rl _ => 3 + byte2.toNat

/-- A request of format L (R72). The length byte is the number of bytes given modulo 256: the spec does not say what is
sent for an operand string of more than 255 bytes. Log 8: DESIGN CHOICE, unsafe. -/
def encodeL (op : Byte) (data : List Byte) : List Byte := op :: byteOfNat data.length :: data

/-- The request of a command (R72, R80). It is also what the assembler of R95 emits: the length byte is written
from the number of bytes given (modulo 256 in formats L and RL, log 8, DESIGN CHOICE). -/
def encode : Instr → List Byte
  | .gfmul a b => [0x01, a, b]
  | .sbox a => [0x02, a]
  | .isbox a => [0x03, a]
  | .rotw w => 0x04 :: wordBytes w
  | .subw w => 0x05 :: wordBytes w
  | .rcon j => [0x06, j]
  | .subb data => encodeL 0x10 data
  | .isubb data => encodeL 0x11 data
  | .shrows data => encodeL 0x12 data
  | .ishrows data => encodeL 0x13 data
  | .mixcol data => encodeL 0x14 data
  | .imixcol data => encodeL 0x15 data
  | .addrk rk data => 0x16 :: rk :: byteOfNat data.length :: data
  | .inc32 data => encodeL 0x17 data
  | .pad data => encodeL 0x18 data
  | .unpad data => encodeL 0x19 data
  | .keyexp key => encodeL 0x20 key
  | .rdrk i => [0x21, i]
  | .encblk data => encodeL 0x30 data
  | .decblk data => encodeL 0x31 data
  | .cbcinit iv => encodeL 0x40 iv
  | .cbcencb data => encodeL 0x41 data
  | .cbcencf data => encodeL 0x42 data
  | .cbcdecb data => encodeL 0x43 data
  | .cbcdecf data => encodeL 0x44 data
  | .rdcv => [0x45]
  | .ctrinit ctr => encodeL 0x50 ctr
  | .ctrencb data => encodeL 0x51 data
  | .ctrencf data => encodeL 0x52 data
  | .ctrdecb data => encodeL 0x53 data
  | .ctrdecf data => encodeL 0x54 data
  | .rdctr => [0x55]

/-- Byte `k` of a request given as a number, bit 0 the least significant bit of byte 0; bits from `nbits` up are 0. -/
def tableByte (nbits w k : Nat) : Byte := BitVec.ofNat 8 (w % 2 ^ nbits / 2 ^ (8 * k))

/-- How many bytes the request of `tableRequest` has: what its format gives, and at least the `nbits` given. -/
def tableLength (nbits w : Nat) : Nat :=
  match shapeOf (tableByte nbits w 0) with
  | none => max 1 (nbits / 8)
  | some shape => max (nbits / 8) (totalLength shape (tableByte nbits w 1) (tableByte nbits w 2))

/-- The request whose bits are `w`, numbered as spec/opcode_table.json numbers them, every bit from `nbits` up zero.
A request is delivered whole (R70), byte 0 first, so its byte k is bits 8k+7..8k. -/
def tableRequest (nbits w : Nat) : List Byte := (List.range (tableLength nbits w)).map (tableByte nbits w)

/-- What the decoder reads from that request. -/
def decodeTableWord (nbits w : Nat) : Option Instr := (decode (tableRequest nbits w)).toOption

end Sys2Proof
end

