-- ==== Sys2Proof/Config.lean ====
section
/-! DEFINITION. What an implementation fixes (00_scope.md R11) and the one free value of the model.
The other parameters of R11 are fixed by the spec and stand as plain numbers where they are used: block size 16,
W_DEPTH 60, Nr = Nk + 6, schedule length 4 × (Nr + 1), N_ENGINES 1, GHASH_PRESENT false (no opcode reaches one, R9, R90). -/

namespace Sys2Proof

/-- `UNPAD_STRICT` (R11, R161, D13): the spec's one open parameter, at the default the spec gives it.
The unpadding operation takes the parameter as an argument, so that both values can be reasoned about.
Log 6: DESIGN CHOICE, unsafe for a block built with `UNPAD_STRICT` = true. -/
def Config.unpadStrict : Bool := false

/-- FREE VALUE (log 2): what word `i` of `W` holds when a KEYEXP has left it with "no value"
(10_state.md R21, 42_key_schedule.md R120). The first argument is the counter `State.staleCount`.
No body: nothing constrains it. Safe. -/
opaque Config.staleWord : Nat → Nat → Word

end Sys2Proof
end

