-- ==== Sys2Proof/Machine/State.lean ====
section
/-! DEFINITION. The state of AESCORE as plain data: the seven architectural registers of 10_state.md R20, the two
channels of 30_encoding.md R70, and one counter of the model's own (log 2). -/

namespace Sys2Proof.Machine

/-- The legal values of `NK`: 4, 6 or 8 key words (10_state.md R22). Log 5. -/
inductive KeyLen where
  | nk4
  | nk6
  | nk8
  deriving DecidableEq, Repr

/-- The five statuses other than OK (60_exceptions.md R200). -/
inductive CmdError where
  /-- 0x01, raised by KEYEXP only (R202) -/
  | invalidKeyLength
  /-- 0x02, raised by every command with a block or tail operand (R203) -/
  | invalidBlockLength
  /-- 0x03, raised by UNPAD, CBCDECF, CTRDECF only (R207) -/
  | invalidPadding
  /-- 0x04, a needed valid flag is 0 (R204) -/
  | notReady
  /-- 0x05, bad opcode, framing or operand value (R205) -/
  | illegalCommand
  deriving DecidableEq, Repr

/-- A response: OK with its payload, or an error status, which carries no payload (30_encoding.md R76). -/
inductive Response where
  | ok (payload : List Byte)
  | error (e : CmdError)
  deriving DecidableEq, Repr

/-- What the outside can do to the block: send a request, whole (R70), or reset it between commands (R220). -/
inductive HostEvent where
  | request (bytes : List Byte)
  | reset
  deriving DecidableEq, Repr

/-- The state. -/
structure State where
  /-- `W[0..59]`, the round-key store (R21) -/
  w : Vector Word 60
  /-- `NK`, the key length of the schedule in `W` (R22) -/
  nk : KeyLen
  /-- `KS_VALID` (R26) -/
  ksValid : Bool
  /-- `CV[0..15]`, the CBC chaining value (R23) -/
  cv : Block
  /-- `CV_VALID` (R26) -/
  cvValid : Bool
  /-- `CB[0..15]`, the CTR counter block (R25) -/
  cb : Block
  /-- `CB_VALID` (R26) -/
  cbValid : Bool
  /-- the model's own counter, which picks the next free values for the unused words of `W` (log 2) -/
  staleCount : Nat
  /-- the request channel: what the host sends, first to be taken first (R13, R19, R70; log 3) -/
  inbox : List HostEvent
  /-- the response channel: one response per request, oldest first (R19, R70; log 3) -/
  outbox : List Response
  deriving DecidableEq, Repr

/-- Why the machine stops. There is no constructor and nobody raises one: every error of the spec is the RESPONSE of
one command, after which the block takes the next request (60_exceptions.md R210, R211; 70_reset_and_hazards.md R232).
Safe: nothing is cut short. -/
inductive Fault where
  deriving DecidableEq, Repr

/-- Why a command has no meaning in the model. -/
inductive Refusal where
  /-- Raised only by an arm of `exec` that rejects its command by name because the model gives it no meaning yet;
  no arm does. Safe: the model says nothing where the hardware goes on. -/
  | notModelled (mnemonic : String)
  deriving DecidableEq, Repr

/-- The machine right after reset: the three flags are 0 (R34, R220) and nothing has been sent or answered. `W`, `NK`,
`CV` and `CB` hold "no value" and no command can read them; the values here are the model's (log 1, DESIGN CHOICE). -/
def State.reset : State where
  w := Vector.replicate 60 0
  nk := .nk4
  ksValid := false
  cv := Vector.replicate 16 0
  cvValid := false
  cb := Vector.replicate 16 0
  cbValid := false
  staleCount := 0
  inbox := []
  outbox := []

end Sys2Proof.Machine
end

