-- ==== Sys2Proof/Machine/Ops.lean ====
section
/-! DEFINITION. The named operations: the registers, the schedule's sizes, the response channel, and what stands in
the place of taking an exception (60_exceptions.md R210) and of returning from one (R211: nothing). -/

namespace Sys2Proof.Machine

/-- What executing a command gives. -/
abbrev Result := Host.Outcome State Fault Refusal

/-- `NK` as a number (10_state.md R22). -/
def keyWords : KeyLen → Nat
  | .nk4 => 4
  | .nk6 => 6
  | .nk8 => 8

/-- `Nr = NK + 6`: 10, 12 or 14 (R22, 00_scope.md R11). -/
def roundCount (k : KeyLen) : Nat := keyWords k + 6

/-- `4 * (NK + 7)` words of schedule: 44, 52 or 60 (R11, R21). -/
def scheduleLength (k : KeyLen) : Nat := 4 * (keyWords k + 7)

/-- `W[i]` (20_memory.md R48). The commands refuse an index at or beyond the schedule, so that the index is below 60
wherever this is used. -/
def wordAt (w : Vector Word 60) (i : Nat) : Word := w.getD i 0

/-- The status byte of an error (60_exceptions.md R200). -/
def statusCode : CmdError → Byte
  | .invalidKeyLength => 0x01
  | .invalidBlockLength => 0x02
  | .invalidPadding => 0x03
  | .notReady => 0x04
  | .illegalCommand => 0x05

/-- A response as the byte string the host receives: status, then payload (30_encoding.md R76). -/
def responseBytes : Response → List Byte
  | .ok payload => 0x00 :: payload
  | .error e => [statusCode e]

/-- The counted-bytes payload: one byte n, then the n bytes (R76). -/
def countedBytes (t : List Byte) : List Byte := byteOfNat t.length :: t

/-- The state once a response has been sent. -/
def State.answer (s : State) (r : Response) : State := { s with outbox := s.outbox ++ [r] }

/-- `respond(p)` (00_scope.md R15): the command ends with status OK. `s` is the state with the command's writes. -/
def respond (payload : List Byte) (s : State) : Result := .next (s.answer (.ok payload))

/-- `raise E` (R15), the block's whole trap entry (60_exceptions.md R206, R210): the one-byte response is sent and
nothing else changes. `s` is the state the command found. There is no return operation: after any response the next
request is taken in the same way (R211). -/
def raise (e : CmdError) (s : State) : Result := .next (s.answer (.error e))

/-- The response to a byte string that is no command: IllegalCommand, whatever the reason (R71, R73, R90, R205). -/
def rejectRequest (s : State) : Result := raise .illegalCommand s

/-- The block with no request to take holds its state (60_exceptions.md R215, 70_reset_and_hazards.md R220). -/
def idle (s : State) : Result := .next s

/-- The reset event between commands (R220, R34): the flags go to 0 and the registers lose their values (log 1, log 4).
What the host has sent and received is not the block's. -/
def resetEvent (s : State) : Result :=
  .next { State.reset with staleCount := s.staleCount, inbox := s.inbox, outbox := s.outbox }

/-- Takes the next thing the outside does to the block, in the order sent (30_encoding.md R70, 20_memory.md R60). -/
def takeEvent (s : State) : Option (HostEvent × State) :=
  match s.inbox with
  | [] => none
  | e :: rest => some (e, { s with inbox := rest })

end Sys2Proof.Machine
end

