-- ==== Sys2Proof/Machine/Flags.lean ====
section
/-! DEFINITION. The three valid flags (10_state.md R26): check 4 of the error priority (60_exceptions.md R204, R208).
AESCORE has no arithmetic flag (R27), so there is no flag computation. -/

namespace Sys2Proof.Machine

/-- RDRK, ADDRK, ENCBLK and DECBLK need KS_VALID (R204). -/
def needSchedule (s : State) (body : Result) : Result :=
  if s.ksValid = false then raise .notReady s else body

/-- RDCV needs CV_VALID (R204). -/
def needCv (s : State) (body : Result) : Result :=
  if s.cvValid = false then raise .notReady s else body

/-- RDCTR needs CB_VALID (R204). -/
def needCb (s : State) (body : Result) : Result :=
  if s.cbValid = false then raise .notReady s else body

/-- The CBC block commands need KS_VALID and CV_VALID (R204). -/
def needCbc (s : State) (body : Result) : Result :=
  if s.ksValid = false ∨ s.cvValid = false then raise .notReady s else body

/-- The CTR block commands need KS_VALID and CB_VALID (R204). -/
def needCtr (s : State) (body : Result) : Result :=
  if s.ksValid = false ∨ s.cbValid = false then raise .notReady s else body

end Sys2Proof.Machine
end

