-- ==== Sys2Proof/Machine/Galois.lean ====
section
/-! DEFINITION. The GF(2^8) multiplier, doubling and the round-constant generator (40_gf_arithmetic.md).
Commands GFMUL and RCON. -/

namespace Sys2Proof.Machine

/-- Doubling, `2 • a`: shift left, and XOR 0x1B when bit 7 leaves (R103, R100, C5). -/
def xtime (a : Byte) : Byte := if a.getLsbD 7 then a <<< 1 ^^^ 0x1b else a <<< 1

/-- `n` iterations of the multiplier's loop on accumulator `p` and operands `a`, `b`: accumulate, shift `a`, shift `b`
(R100). -/
def gfmulLoop : Nat → Byte → Byte → Byte → Byte
  | 0, p, _, _ => p
  | n + 1, p, a, b => gfmulLoop n (if b.getLsbD 0 then p ^^^ a else p) (xtime a) (b >>> 1)

/-- `a • b`, exactly 8 iterations (R100). -/
def gfmul (a b : Byte) : Byte := gfmulLoop 8 0 a b

/-- The constant doubled `n` times from 0x01 (R104). -/
def doubledOne : Nat → Byte
  | 0 => 0x01
  | n + 1 => xtime (doubledOne n)

/-- `rc(j)`, j ≥ 1: 0x01 at the first call, doubled at each later one (R104). -/
def rc (j : Nat) : Byte := doubledOne (j - 1)

/-- A round-constant word: the constant in the leading byte (R52, R104). -/
def rcWord (c : Byte) : Word := wordOfBytes c 0 0 0

/-- `rcon(j)` (R104). -/
def rcon (j : Nat) : Word := rcWord (rc j)

/-- GFMUL (R101). -/
def execGfmul (a b : Byte) (s : State) : Result := respond [gfmul a b] s

/-- RCON (R105): there is no zeroth call. -/
def execRcon (j : Byte) (s : State) : Result :=
  if j = 0 then raise .illegalCommand s else respond (wordBytes (rcon j.toNat)) s

end Sys2Proof.Machine
end

