-- ==== Sys2Proof/Machine/Operands.lean ====
section
/-! DEFINITION. The three kinds of byte-string operand and their legal lengths (30_encoding.md R74): check 3 of the
error priority (60_exceptions.md R208). Nothing is padded, truncated or processed in part (20_memory.md R55). -/

namespace Sys2Proof.Machine

/-- A block operand (BK): `len` = 16, else InvalidBlockLength (R74, R203). -/
def withBlock (data : List Byte) (s : State) (body : Block → Result) : Result :=
  if data.length = 16 then body (blockOfBytes data) else raise .invalidBlockLength s

/-- A tail operand (PT): `len` 0 to 15, else InvalidBlockLength (R74, R203, D24). -/
def withTail (data : List Byte) (s : State) (body : List Byte → Result) : Result :=
  if data.length ≤ 15 then body data else raise .invalidBlockLength s

/-- The key length in words of a key of so many bytes (42_key_schedule.md R120). -/
def keyLenOf : Nat → Option KeyLen
  | 16 => some .nk4
  | 24 => some .nk6
  | 32 => some .nk8
  | _ => none

/-- A key operand (KY): `len` 16, 24 or 32, else InvalidKeyLength (R74, R202). -/
def withKey (key : List Byte) (s : State) (body : KeyLen → Result) : Result :=
  match keyLenOf key.length with
  | some k => body k
  | none => raise .invalidKeyLength s

end Sys2Proof.Machine
end

