-- ==== Sys2Proof/Machine/RoundTransform.lean ====
section
/-! DEFINITION. The State matrix (10_state.md R24) and the round operations with their inverses
(43_round_transform.md). Commands SUBB, ISUBB, SHROWS, ISHROWS, MIXCOL, IMIXCOL, ADDRK.
The matrix is working state of one command: no field of `State` holds it. -/

namespace Sys2Proof.Machine

/-- The 4 × 4 byte matrix, as four rows of four bytes (R24). -/
abbrev Matrix := Vector (Vector Byte 4) 4

/-- `S[r][c]` (R14). -/
def cell (S : Matrix) (r c : Fin 4) : Byte := (S[r])[c]

/-- The matrix with the given cells. -/
def matrixOf (f : Fin 4 → Fin 4 → Byte) : Matrix := Vector.ofFn fun r => Vector.ofFn fun c => f r c

/-- Load a block: `S[r][c] = b[r + 4*c]` (R24). -/
def load (b : Block) : Matrix := matrixOf fun r c => b[r.val + 4 * c.val]

/-- Store a State: `b[r + 4*c] = S[r][c]` (R24). -/
def store (S : Matrix) : Block :=
  Vector.ofFn fun k => cell S ⟨k.val % 4, by omega⟩ ⟨k.val / 4, by omega⟩

/-- `SubBytes(S)` (R131). -/
def subBytes (S : Matrix) : Matrix := matrixOf fun r c => sbox (cell S r c)

/-- `InvSubBytes(S)` (R131). -/
def invSubBytes (S : Matrix) : Matrix := matrixOf fun r c => isbox (cell S r c)

/-- `ShiftRows(S)`: `S'[r][c] = S[r][(c + r) mod 4]`; arithmetic on `Fin 4` is modulo 4 (R134). -/
def shiftRows (S : Matrix) : Matrix := matrixOf fun r c => cell S r (c + r)

/-- `InvShiftRows(S)`: `S'[r][c] = S[r][(c - r) mod 4]` (R134). -/
def invShiftRows (S : Matrix) : Matrix := matrixOf fun r c => cell S r (c - r)

/-- The coefficients {2,3,1,1}, first row of the forward matrix (R137). -/
def mixForward : Vector Byte 4 := #v[2, 3, 1, 1]

/-- The coefficients {14,11,13,9}, first row of the inverse matrix (R137). -/
def mixInverse : Vector Byte 4 := #v[14, 11, 13, 9]

/-- `S'[r][c] = XOR over k of m[(k - r) mod 4] • S[k][c]` (R137). -/
def mixWith (m : Vector Byte 4) (S : Matrix) : Matrix :=
  matrixOf fun r c =>
    gfmul m[0 - r] (cell S 0 c) ^^^ gfmul m[1 - r] (cell S 1 c) ^^^
      gfmul m[2 - r] (cell S 2 c) ^^^ gfmul m[3 - r] (cell S 3 c)

/-- `MixColumns(S)` (R137). -/
def mixColumns (S : Matrix) : Matrix := mixWith mixForward S

/-- `InvMixColumns(S)` (R137). -/
def invMixColumns (S : Matrix) : Matrix := mixWith mixInverse S

/-- `AddRoundKey(S, rk)`: `S'[r][c] = S[r][c] ^ W[4*rk + c][r]` (R140). -/
def addRoundKey (w : Vector Word 60) (rk : Nat) (S : Matrix) : Matrix :=
  matrixOf fun r c => cell S r c ^^^ wordByte (wordAt w (4 * rk + c.val)) r.val

/-- The common shape of the seven commands: load, one function, store (R130). -/
def onBlock (f : Matrix → Matrix) (b : Block) : Block := store (f (load b))

/-- SUBB (R132). -/
def execSubb (data : List Byte) (s : State) : Result :=
  withBlock data s fun b => respond (blockBytes (onBlock subBytes b)) s

/-- ISUBB (R133). -/
def execIsubb (data : List Byte) (s : State) : Result :=
  withBlock data s fun b => respond (blockBytes (onBlock invSubBytes b)) s

/-- SHROWS (R135). -/
def execShrows (data : List Byte) (s : State) : Result :=
  withBlock data s fun b => respond (blockBytes (onBlock shiftRows b)) s

/-- ISHROWS (R136). -/
def execIshrows (data : List Byte) (s : State) : Result :=
  withBlock data s fun b => respond (blockBytes (onBlock invShiftRows b)) s

/-- MIXCOL (R138). -/
def execMixcol (data : List Byte) (s : State) : Result :=
  withBlock data s fun b => respond (blockBytes (onBlock mixColumns b)) s

/-- IMIXCOL (R139). -/
def execImixcol (data : List Byte) (s : State) : Result :=
  withBlock data s fun b => respond (blockBytes (onBlock invMixColumns b)) s

/-- ADDRK (R141): block length, then NotReady, then the range of `rk`. -/
def execAddrk (rk : Byte) (data : List Byte) (s : State) : Result :=
  withBlock data s fun b =>
    needSchedule s <|
      if rk.toNat > roundCount s.nk then raise .illegalCommand s
      else respond (blockBytes (onBlock (addRoundKey s.w rk.toNat) b)) s

end Sys2Proof.Machine
end

