-- ==== Sys2Proof/Machine/CipherEngine.lean ====
section
/-! DEFINITION. The cipher engine: one block encrypted or decrypted (44_cipher_engine.md). Commands ENCBLK, DECBLK.
The round count is always NK + 6 of the NK stored with the schedule (R155). -/

namespace Sys2Proof.Machine

/-- One full round, number `rnd` (R150). -/
def fullRound (w : Vector Word 60) (rnd : Nat) (S : Matrix) : Matrix :=
  addRoundKey w rnd (mixColumns (shiftRows (subBytes S)))

/-- Rounds 1 to `n`, in that order (R150). -/
def encryptRounds (w : Vector Word 60) : Nat → Matrix → Matrix
  | 0, S => S
  | n + 1, S => fullRound w (n + 1) (encryptRounds w n S)

/-- `Encrypt(b)` under the schedule `w` with `nr` rounds (R150). -/
def encrypt (w : Vector Word 60) (nr : Nat) (b : Block) : Block :=
  store (addRoundKey w nr (shiftRows (subBytes (encryptRounds w (nr - 1) (addRoundKey w 0 (load b))))))

/-- The step of decryption that undoes full round `rnd` (R151). -/
def undoRound (w : Vector Word 60) (rnd : Nat) (S : Matrix) : Matrix :=
  invMixColumns (addRoundKey w rnd (invSubBytes (invShiftRows S)))

/-- The loop of decryption, from round `n` down to 1 (R151). -/
def decryptRounds (w : Vector Word 60) : Nat → Matrix → Matrix
  | 0, S => S
  | n + 1, S => decryptRounds w n (undoRound w (n + 1) S)

/-- `Decrypt(b)`: the inverse of `Encrypt`, step by step, round keys Nr down to 0 (R151, C2). -/
def decrypt (w : Vector Word 60) (nr : Nat) (b : Block) : Block :=
  store (addRoundKey w 0 (invSubBytes (invShiftRows (decryptRounds w (nr - 1) (addRoundKey w nr (load b))))))

/-- Round key `rk` taken as a State: word 4rk + c is column c, leading byte in row 0 (R140, R154). -/
def keyMatrix (w : Vector Word 60) (rk : Nat) : Matrix :=
  matrixOf fun r c => wordByte (wordAt w (4 * rk + c.val)) r.val

/-- XOR of two States, cell by cell. -/
def xorMatrix (S T : Matrix) : Matrix := matrixOf fun r c => cell S r c ^^^ cell T r c

/-- One middle round of the equivalent inverse cipher, with the round key passed through InvMixColumns (R154). -/
def equivalentRound (w : Vector Word 60) (rnd : Nat) (S : Matrix) : Matrix :=
  xorMatrix (invMixColumns (invShiftRows (invSubBytes S))) (invMixColumns (keyMatrix w rnd))

/-- Its loop, from round `n` down to 1 (R154). -/
def equivalentRounds (w : Vector Word 60) : Nat → Matrix → Matrix
  | 0, S => S
  | n + 1, S => equivalentRounds w n (equivalentRound w (n + 1) S)

/-- `DecryptEquivalent(b)` (R154): another structure that computes the same function. No command uses it. -/
def decryptEquivalent (w : Vector Word 60) (nr : Nat) (b : Block) : Block :=
  store (xorMatrix (invShiftRows (invSubBytes (equivalentRounds w (nr - 1) (xorMatrix (load b) (keyMatrix w nr)))))
    (keyMatrix w 0))

/-- `Encrypt` under the schedule the state holds (R150, R155). -/
def encryptUnder (s : State) (b : Block) : Block := encrypt s.w (roundCount s.nk) b

/-- `Decrypt` under the schedule the state holds (R151, R155). -/
def decryptUnder (s : State) (b : Block) : Block := decrypt s.w (roundCount s.nk) b

/-- ENCBLK (R152). -/
def execEncblk (data : List Byte) (s : State) : Result :=
  withBlock data s fun b => needSchedule s (respond (blockBytes (encryptUnder s b)) s)

/-- DECBLK (R153). -/
def execDecblk (data : List Byte) (s : State) : Result :=
  withBlock data s fun b => needSchedule s (respond (blockBytes (decryptUnder s b)) s)

end Sys2Proof.Machine
end

