-- ==== Sys2Proof/Machine/PaddingCbc.lean ====
section
/-! DEFINITION. The PKCS#7 padding unit and the CBC chaining controller (45_padding_cbc.md).
Commands PAD, UNPAD, CBCINIT, CBCENCB, CBCENCF, CBCDECB, CBCDECF, RDCV. -/

namespace Sys2Proof.Machine

/-- `PadFinal(t)`, 0 to 15 bytes: p = 16 − n bytes of value p appended (R160). -/
def padFinal (t : List Byte) : List Byte := t ++ List.replicate (16 - t.length) (byteOfNat (16 - t.length))

/-- `UnpadFinal(d)` (R161). With `strict` (`UNPAD_STRICT`) every pad byte is compared with the count; without it only
the last byte is looked at. -/
def unpadFinal (strict : Bool) (d : Block) : Except CmdError (List Byte) :=
  if d[15].toNat = 0 ∨ d[15].toNat > 16 then .error .invalidPadding
  else if strict && !((blockBytes d).drop (16 - d[15].toNat)).all (· == d[15]) then .error .invalidPadding
  else .ok ((blockBytes d).take (16 - d[15].toNat))

/-- The end of UNPAD, CBCDECF and CTRDECF: counted bytes and the command's writes (`committed`), or InvalidPadding and
no write at all (60_exceptions.md R206). -/
def respondUnpadded (strict : Bool) (d : Block) (committed s : State) : Result :=
  match unpadFinal strict d with
  | .ok t => respond (countedBytes t) committed
  | .error e => raise e s

/-- Encrypt one CBC block: `C <- Encrypt(P ^ CV)`, which is also the next CV (R164). -/
def cbcEncryptBlock (s : State) (p : Block) : Block := encryptUnder s (xorBlock p s.cv)

/-- Decrypt one CBC block: `Decrypt(C) ^ CV`, with the old CV (R164). -/
def cbcDecryptBlock (s : State) (c : Block) : Block := xorBlock (decryptUnder s c) s.cv

/-- `CV <- b`, the write of a CBC block command (R164). -/
def State.setCv (s : State) (b : Block) : State := { s with cv := b }

/-- The writes of CBCINIT: `CV <- b; CV_VALID <- 1` (R165). -/
def State.initCv (s : State) (b : Block) : State := { s with cv := b, cvValid := true }

/-- PAD (R162). -/
def execPad (data : List Byte) (s : State) : Result :=
  withTail data s fun t => respond (padFinal t) s

/-- UNPAD (R163). -/
def execUnpad (data : List Byte) (s : State) : Result :=
  withBlock data s fun d => respondUnpadded Config.unpadStrict d s s

/-- CBCINIT (R165). -/
def execCbcinit (iv : List Byte) (s : State) : Result :=
  withBlock iv s fun b => respond [] (s.initCv b)

/-- CBCENCB (R166). -/
def execCbcencb (data : List Byte) (s : State) : Result :=
  withBlock data s fun p =>
    needCbc s (respond (blockBytes (cbcEncryptBlock s p)) (s.setCv (cbcEncryptBlock s p)))

/-- CBCENCF (R167): the padded tail, chained as any block. -/
def execCbcencf (data : List Byte) (s : State) : Result :=
  withTail data s fun t =>
    needCbc s
      (respond (blockBytes (cbcEncryptBlock s (blockOfBytes (padFinal t))))
        (s.setCv (cbcEncryptBlock s (blockOfBytes (padFinal t)))))

/-- CBCDECB (R168): the incoming ciphertext block becomes the next CV. -/
def execCbcdecb (data : List Byte) (s : State) : Result :=
  withBlock data s fun c => needCbc s (respond (blockBytes (cbcDecryptBlock s c)) (s.setCv c))

/-- CBCDECF (R169): on InvalidPadding CV is left as it was. -/
def execCbcdecf (data : List Byte) (s : State) : Result :=
  withBlock data s fun c =>
    needCbc s (respondUnpadded Config.unpadStrict (cbcDecryptBlock s c) (s.setCv c) s)

/-- RDCV (R170). -/
def execRdcv (s : State) : Result := needCv s (respond (blockBytes s.cv) s)

end Sys2Proof.Machine
end

