-- ==== Sys2Proof/Machine/Ctr.lean ====
section
/-! DEFINITION. The counter increment unit and the CTR keystream engine (46_ctr.md).
Commands INC32, CTRINIT, CTRENCB, CTRENCF, CTRDECB, CTRDECF, RDCTR. -/

namespace Sys2Proof.Machine

/-- The counter field of a block: bytes 12 to 15 as one big-endian number (R180, 20_memory.md R53). -/
def counterField (x : Block) : Word := wordOfBytes x[12] x[13] x[14] x[15]

/-- `inc32(x)`: the field plus 1 modulo 2^32, bytes 0 to 11 unchanged (R180). -/
def inc32 (x : Block) : Block :=
  Vector.ofFn fun k => if k.val < 12 then x[k] else wordByte (counterField x + 1) (k.val - 12)

/-- One CTR block, in either direction: `X ^ Encrypt(CB)` (R189). -/
def ctrBlock (s : State) (x : Block) : Block := xorBlock x (encryptUnder s s.cb)

/-- `CB <- b`, the write of a CTR block command (R189). -/
def State.setCb (s : State) (b : Block) : State := { s with cb := b }

/-- The writes of CTRINIT: `CB <- b; CB_VALID <- 1` (R182). -/
def State.initCb (s : State) (b : Block) : State := { s with cb := b, cbValid := true }

/-- INC32 (R181). -/
def execInc32 (data : List Byte) (s : State) : Result :=
  withBlock data s fun x => respond (blockBytes (inc32 x)) s

/-- CTRINIT (R182). -/
def execCtrinit (ctr : List Byte) (s : State) : Result :=
  withBlock ctr s fun b => respond [] (s.initCb b)

/-- CTRENCB (R183). -/
def execCtrencb (data : List Byte) (s : State) : Result :=
  withBlock data s fun p => needCtr s (respond (blockBytes (ctrBlock s p)) (s.setCb (inc32 s.cb)))

/-- CTRENCF (R185): padded first, then the whole block XORed with the keystream. -/
def execCtrencf (data : List Byte) (s : State) : Result :=
  withTail data s fun t =>
    needCtr s (respond (blockBytes (ctrBlock s (blockOfBytes (padFinal t)))) (s.setCb (inc32 s.cb)))

/-- CTRDECB (R184): the forward cipher, as CTRENCB. -/
def execCtrdecb (data : List Byte) (s : State) : Result :=
  withBlock data s fun c => needCtr s (respond (blockBytes (ctrBlock s c)) (s.setCb (inc32 s.cb)))

/-- CTRDECF (R186): on InvalidPadding CB is left as it was. -/
def execCtrdecf (data : List Byte) (s : State) : Result :=
  withBlock data s fun c =>
    needCtr s (respondUnpadded Config.unpadStrict (ctrBlock s c) (s.setCb (inc32 s.cb)) s)

/-- RDCTR (R187). -/
def execRdctr (s : State) : Result := needCb s (respond (blockBytes s.cb) s)

end Sys2Proof.Machine
end

