-- ==== Sys2Proof/Machine/SboxUnits.lean ====
section
/-! DEFINITION. The S-box lookup units, SubWord and RotWord (41_sbox_units.md). Commands SBOX, ISBOX, SUBW, ROTW. -/

namespace Sys2Proof.Machine

/-- `SubWord(w)`: the forward S-box on each byte (R112). -/
def subWord (w : Word) : Word :=
  wordOfBytes (sbox (wordByte w 0)) (sbox (wordByte w 1)) (sbox (wordByte w 2)) (sbox (wordByte w 3))

/-- `RotWord([b0, b1, b2, b3]) = [b1, b2, b3, b0]` (R114). -/
def rotWord (w : Word) : Word := wordOfBytes (wordByte w 1) (wordByte w 2) (wordByte w 3) (wordByte w 0)

/-- SBOX (R110). -/
def execSbox (a : Byte) (s : State) : Result := respond [sbox a] s

/-- ISBOX (R111). -/
def execIsbox (a : Byte) (s : State) : Result := respond [isbox a] s

/-- SUBW (R113). -/
def execSubw (w : Word) (s : State) : Result := respond (wordBytes (subWord w)) s

/-- ROTW (R115). -/
def execRotw (w : Word) (s : State) : Result := respond (wordBytes (rotWord w)) s

end Sys2Proof.Machine
end

