-- ==== Sys2Proof/Machine/KeySchedule.lean ====
section
/-! DEFINITION. The key schedule expander (42_key_schedule.md). Commands KEYEXP and RDRK. -/

namespace Sys2Proof.Machine

/-- The first Nk words: word i is key bytes 4i to 4i+3, leading byte first (R121, 20_memory.md R52). -/
def keyToWords (key : List Byte) (nk : Nat) : List Word :=
  (List.range nk).map fun i =>
    wordOfBytes (key.getD (4 * i) 0) (key.getD (4 * i + 1) 0) (key.getD (4 * i + 2) 0) (key.getD (4 * i + 3) 0)

/-- `temp` of step `i`, from the round constant and word i−1 (R121). -/
def scheduleTemp (nk i : Nat) (c : Byte) (prev : Word) : Word :=
  if i % nk = 0 then subWord (rotWord prev) ^^^ rcWord c
  else if nk = 8 ∧ i % nk = 4 then subWord prev
  else prev

/-- `RC` after step `i`: doubled at a boundary, "ready for the next boundary" (R121, R122). -/
def nextConstant (nk i : Nat) (c : Byte) : Byte := if i % nk = 0 then xtime c else c

/-- `n` more steps of the expansion: `c` is RC, `ws` the words built so far, so that i is their number (R121). -/
def expandFrom (nk : Nat) : Nat → Byte → List Word → List Word
  | 0, _, ws => ws
  | n + 1, c, ws =>
    expandFrom nk n (nextConstant nk ws.length c)
      (ws ++ [ws.getD (ws.length - nk) 0 ^^^ scheduleTemp nk ws.length c (ws.getD (ws.length - 1) 0)])

/-- `Expand(key, Nk)`: 4 * (Nk + 7) words. RC starts at 0x01 and is local to the call (R121, R122, 10_state.md R31). -/
def expand (key : List Byte) (nk : Nat) : List Word :=
  expandFrom nk (4 * (nk + 7) - nk) 0x01 (keyToWords key nk)

/-- `W` after a KEYEXP: the schedule, and above it words with "no value", each a free value (R120, R21; log 2). -/
def scheduleStore (k : KeyLen) (schedule : List Word) (stale : Nat) : Vector Word 60 :=
  Vector.ofFn fun i =>
    if i.val < scheduleLength k then schedule.getD i.val 0 else Config.staleWord stale i.val

/-- The writes of KEYEXP: W, NK, KS_VALID (R120); the model's counter moves on (log 2). -/
def State.setSchedule (s : State) (store : Vector Word 60) (k : KeyLen) : State :=
  { s with w := store, nk := k, ksValid := true, staleCount := s.staleCount + 1 }

/-- KEYEXP (R120). -/
def execKeyexp (key : List Byte) (s : State) : Result :=
  withKey key s fun k =>
    respond [] (s.setSchedule (scheduleStore k (expand key (keyWords k)) s.staleCount) k)

/-- RDRK (R124): NotReady before the range check. -/
def execRdrk (i : Byte) (s : State) : Result :=
  needSchedule s <|
    if i.toNat ≥ scheduleLength s.nk then raise .illegalCommand s
    else respond (wordBytes (wordAt s.w i.toNat)) s

end Sys2Proof.Machine
end

