-- ==== Sys2Proof/Machine/Dispatch.lean ====
section
/-! DEFINITION. The meaning of each command: one arm per constructor of `Instr`. -/

namespace Sys2Proof.Machine

def exec (i : Instr) (s : State) : Host.Outcome State Fault Refusal :=
  match i with
  | .gfmul a b => Sys2Proof.Machine.execGfmul a b s
  | .sbox a => Sys2Proof.Machine.execSbox a s
  | .isbox a => Sys2Proof.Machine.execIsbox a s
  | .rotw w => Sys2Proof.Machine.execRotw w s
  | .subw w => Sys2Proof.Machine.execSubw w s
  | .rcon j => Sys2Proof.Machine.execRcon j s
  | .subb data => Sys2Proof.Machine.execSubb data s
  | .isubb data => Sys2Proof.Machine.execIsubb data s
  | .shrows data => Sys2Proof.Machine.execShrows data s
  | .ishrows data => Sys2Proof.Machine.execIshrows data s
  | .mixcol data => Sys2Proof.Machine.execMixcol data s
  | .imixcol data => Sys2Proof.Machine.execImixcol data s
  | .addrk rk data => Sys2Proof.Machine.execAddrk rk data s
  | .inc32 data => Sys2Proof.Machine.execInc32 data s
  | .pad data => Sys2Proof.Machine.execPad data s
  | .unpad data => Sys2Proof.Machine.execUnpad data s
  | .keyexp key => Sys2Proof.Machine.execKeyexp key s
  | .rdrk index => Sys2Proof.Machine.execRdrk index s
  | .encblk data => Sys2Proof.Machine.execEncblk data s
  | .decblk data => Sys2Proof.Machine.execDecblk data s
  | .cbcinit iv => Sys2Proof.Machine.execCbcinit iv s
  | .cbcencb data => Sys2Proof.Machine.execCbcencb data s
  | .cbcencf data => Sys2Proof.Machine.execCbcencf data s
  | .cbcdecb data => Sys2Proof.Machine.execCbcdecb data s
  | .cbcdecf data => Sys2Proof.Machine.execCbcdecf data s
  | .rdcv => Sys2Proof.Machine.execRdcv s
  | .ctrinit ctr => Sys2Proof.Machine.execCtrinit ctr s
  | .ctrencb data => Sys2Proof.Machine.execCtrencb data s
  | .ctrencf data => Sys2Proof.Machine.execCtrencf data s
  | .ctrdecb data => Sys2Proof.Machine.execCtrdecb data s
  | .ctrdecf data => Sys2Proof.Machine.execCtrdecf data s
  | .rdctr => Sys2Proof.Machine.execRdctr s

end Sys2Proof.Machine
end

