-- ==== Sys2Proof/Machine/Step.lean ====
section
/-! DEFINITION. One step: the next thing the outside does to the block is taken; a request is decoded and executed,
and answered with exactly one response (30_encoding.md R70; 00_scope.md R12). -/

namespace Sys2Proof.Machine

/-- One step of AESCORE. -/
def step (s : State) : Host.Outcome State Fault Refusal :=
  match takeEvent s with
  | none => idle s
  | some (.reset, s') => resetEvent s'
  | some (.request bytes, s') =>
    match decode bytes with
    | .ok i => exec i s'
    | .error _ => rejectRequest s'

/-- `s` with that request as the next one the host sends, so that the very next step takes it (log 3). -/
def State.withFetchWord (s : State) (nbits w : Nat) : State :=
  { s with inbox := .request (tableRequest nbits w) :: s.inbox }

end Sys2Proof.Machine
end

