-- ==== Sys2Proof/Machine/Messages.lean ====
section
/-! DEFINITION. Whole messages in closed form (45_padding_cbc.md R160, R161, R171; 46_ctr.md R188). No single command
computes them; the pseudo-commands of Machine/Pseudo.lean do, command by command. -/

namespace Sys2Proof.Machine

/-- `pad(msg)`: p = 16 − (L mod 16) bytes of value p appended (R160). -/
def padMessage (msg : List Byte) : List Byte :=
  msg ++ List.replicate (16 - msg.length % 16) (byteOfNat (16 - msg.length % 16))

/-- `unpad(m)` of a byte string of a positive multiple of 16 bytes: all but the last block, and that block unpadded
(R161). -/
def unpadMessage (strict : Bool) (m : List Byte) : Except CmdError (List Byte) :=
  match unpadFinal strict (blockOfBytes (m.drop (m.length - 16))) with
  | .ok t => .ok (m.take (m.length - 16) ++ t)
  | .error e => .error e

/-- Block `k` of a byte string: bytes 16k to 16k + 15. -/
def blockNumber (m : List Byte) (k : Nat) : Block := blockOfBytes ((m.drop (16 * k)).take 16)

/-- The 16-byte blocks of a byte string whose length is a multiple of 16. -/
def blocksOf (m : List Byte) : List Block := (List.range (m.length / 16)).map (blockNumber m)

/-- Blocks, concatenated. -/
def bytesOf (bs : List Block) : List Byte := bs.flatMap blockBytes

/-- `C_k = Encrypt(P_k ^ C_{k-1})` along a list of blocks, from the chaining value `prev` (R171). -/
def cbcEncryptChain (enc : Block → Block) : Block → List Block → List Block
  | _, [] => []
  | prev, p :: ps => enc (xorBlock p prev) :: cbcEncryptChain enc (enc (xorBlock p prev)) ps

/-- `P_k = Decrypt(C_k) ^ C_{k-1}` along a list of blocks, from the chaining value `prev` (R171). -/
def cbcDecryptChain (dec : Block → Block) : Block → List Block → List Block
  | _, [] => []
  | prev, c :: cs => xorBlock (dec c) prev :: cbcDecryptChain dec c cs

/-- `inc32^k(ctr)` (R188). -/
def counterAt (ctr : Block) : Nat → Block
  | 0 => ctr
  | k + 1 => inc32 (counterAt ctr k)

/-- `X_k ^ Encrypt(ctr_k)` for each block of a list, `k` counted from `start` (R188). -/
def ctrChain (enc : Block → Block) (ctr : Block) : Nat → List Block → List Block
  | _, [] => []
  | start, x :: xs => xorBlock x (enc (counterAt ctr start)) :: ctrChain enc ctr (start + 1) xs

/-- `cbcEncrypt(msg, iv)` (R171). -/
def cbcEncryptMessage (enc : Block → Block) (iv : Block) (msg : List Byte) : List Byte :=
  bytesOf (cbcEncryptChain enc iv (blocksOf (padMessage msg)))

/-- `cbcDecrypt(ct, iv)`, for a ciphertext of a positive multiple of 16 bytes (R171). -/
def cbcDecryptMessage (strict : Bool) (dec : Block → Block) (iv : Block) (ct : List Byte) :
    Except CmdError (List Byte) :=
  unpadMessage strict (bytesOf (cbcDecryptChain dec iv (blocksOf ct)))

/-- `ctrEncrypt(msg, ctr)` (R188). -/
def ctrEncryptMessage (enc : Block → Block) (ctr : Block) (msg : List Byte) : List Byte :=
  bytesOf (ctrChain enc ctr 0 (blocksOf (padMessage msg)))

/-- `ctrDecrypt(ct, ctr)`, for a ciphertext of a positive multiple of 16 bytes (R188). -/
def ctrDecryptMessage (strict : Bool) (enc : Block → Block) (ctr : Block) (ct : List Byte) :
    Except CmdError (List Byte) :=
  unpadMessage strict (bytesOf (ctrChain enc ctr 0 (blocksOf ct)))

end Sys2Proof.Machine
end

