-- ==== Sys2Proof/Machine/Payload.lean ====
section
/-! DEFINITION. The form of each command's OK payload (30_encoding.md R76, R80). -/

namespace Sys2Proof.Machine

/-- The form of an OK payload (R76). -/
inductive PayloadForm where
  | none
  | byte
  | word
  | block
  | counted
  deriving DecidableEq, Repr

/-- The payload form the opcode fixes (R76, R80). -/
def payloadForm : Instr → PayloadForm
  | .gfmul _ _ => .byte
  | .sbox _ => .byte
  | .isbox _ => .byte
  | .rotw _ => .word
  | .subw _ => .word
  | .rcon _ => .word
  | .subb _ => .block
  | .isubb _ => .block
  | .shrows _ => .block
  | .ishrows _ => .block
  | .mixcol _ => .block
  | .imixcol _ => .block
  | .addrk _ _ => .block
  | .inc32 _ => .block
  | .pad _ => .block
  | .unpad _ => .counted
  | .keyexp _ => .none
  | .rdrk _ => .word
  | .encblk _ => .block
  | .decblk _ => .block
  | .cbcinit _ => .none
  | .cbcencb _ => .block
  | .cbcencf _ => .block
  | .cbcdecb _ => .block
  | .cbcdecf _ => .counted
  | .rdcv => .block
  | .ctrinit _ => .none
  | .ctrencb _ => .block
  | .ctrencf _ => .block
  | .ctrdecb _ => .block
  | .ctrdecf _ => .counted
  | .rdctr => .block

/-- A payload has a form (R76): counted bytes are n, 0 to 15, and then n bytes. -/
def hasForm : PayloadForm → List Byte → Bool
  | .none, p => p.length == 0
  | .byte, p => p.length == 1
  | .word, p => p.length == 4
  | .block, p => p.length == 16
  | .counted, p =>
    match p with
    | [] => false
    | n :: data => n.toNat == data.length && data.length ≤ 15

/-- What a payload carries, without the count of counted bytes (R76, R95, R96). -/
def payloadData (i : Instr) (payload : List Byte) : List Byte :=
  match payloadForm i with
  | .counted => payload.drop 1
  | .none => payload
  | .byte => payload
  | .word => payload
  | .block => payload

end Sys2Proof.Machine
end

