-- ==== Sys2Proof/Machine/Pseudo.lean ====
section
/-! DEFINITION. The four pseudo-commands (30_encoding.md R96): each is a sequence of real commands the host issues one
after another, stopping at the first status other than OK. -/

namespace Sys2Proof.Machine

/-- A whole-message operation of the source's API (R96). -/
inductive Pseudo where
  | cbcenc (iv msg : List Byte)
  | cbcdec (iv ct : List Byte)
  | ctrenc (ctr msg : List Byte)
  | ctrdec (ctr ct : List Byte)
  deriving DecidableEq, Repr

/-- Piece `k` of a byte string, `[16k .. 16k + 16]`. -/
def piece (m : List Byte) (k : Nat) : List Byte := (m.drop (16 * k)).take 16

/-- An initialisation, an interior command for each of the first `n` pieces, and a final command for the rest (R96). -/
def messageCommands (start : Instr) (interior final : List Byte → Instr) (n : Nat) (m : List Byte) : List Instr :=
  start :: (List.range n).map (fun k => interior (piece m k)) ++ [final (m.drop (16 * n))]

/-- The ciphertext can be cut into block operands (R96, D15). -/
def cutsIntoBlocks (ct : List Byte) : Bool := ct.length % 16 == 0 && ct.length != 0

/-- What a pseudo-command expands to; `none` where the host itself reports InvalidBlockLength (R96). -/
def expandPseudo : Pseudo → Option (List Instr)
  | .cbcenc iv msg => some (messageCommands (.cbcinit iv) .cbcencb .cbcencf (msg.length / 16) msg)
  | .cbcdec iv ct =>
    if cutsIntoBlocks ct then some (messageCommands (.cbcinit iv) .cbcdecb .cbcdecf (ct.length / 16 - 1) ct) else none
  | .ctrenc ctr msg => some (messageCommands (.ctrinit ctr) .ctrencb .ctrencf (msg.length / 16) msg)
  | .ctrdec ctr ct =>
    if cutsIntoBlocks ct then some (messageCommands (.ctrinit ctr) .ctrdecb .ctrdecf (ct.length / 16 - 1) ct) else none

/-- The host sends one request and waits for its response (R70): the state after, and the response. -/
def transact (request : List Byte) (s : State) : Option (State × Response) :=
  match step { s with inbox := .request request :: s.inbox } with
  | .next t => t.outbox.getLast?.map fun r => (t, r)
  | .fault _ => none
  | .refused _ => none

/-- The host sends the commands of a list in order and concatenates the message bytes it is answered, stopping at the
first status other than OK (R96). -/
def issue : List Instr → List Byte → State → Option (State × Except CmdError (List Byte))
  | [], got, s => some (s, .ok got)
  | i :: rest, got, s =>
    match transact (encode i) s with
    | none => none
    | some (t, .ok payload) => issue rest (got ++ payloadData i payload) t
    | some (t, .error e) => some (t, .error e)

/-- A pseudo-command, run by the host from a state: the state after it, and its result (R96). -/
def runPseudo (p : Pseudo) (s : State) : Option (State × Except CmdError (List Byte)) :=
  match expandPseudo p with
  | none => some (s, .error .invalidBlockLength)
  | some commands => issue commands [] s

end Sys2Proof.Machine
end

