-- ==== Sys2Proof/Safety.lean ====
section
/-! DEFINITION. What the statements speak of: the invariant of the state, which
registers each command reads and writes, the order of the checks, when two states cannot be told apart by any command,
and the spec's second formulations of some functions, with which the machine's own are compared. -/

namespace Sys2Proof.Machine

/-- The key bytes the schedule in `W` starts with: its first NK words (42_key_schedule.md R121, R123 (b)). -/
def keyInStore (s : State) : List Byte :=
  (List.range (keyWords s.nk)).flatMap fun i => wordBytes (wordAt s.w i)

/-- While KS_VALID = 1, W and NK hold a complete schedule: the expansion of the key in its first NK words
(10_state.md R20, R22). -/
abbrev ScheduleComplete (s : State) : Prop :=
  s.ksValid = true → ∀ i < scheduleLength s.nk, wordAt s.w i = (expand (keyInStore s) (keyWords s.nk)).getD i 0

/-- An OK response is 1 to 17 bytes long (30_encoding.md R76). -/
def responseFits : Response → Bool
  | .ok payload => payload.length ≤ 16
  | .error _ => true

/-- The invariant: the schedule is complete, and every response sent is one of R76's. -/
structure Inv (s : State) : Prop where
  schedule : ScheduleComplete s
  responses : ∀ r ∈ s.outbox, responseFits r = true

/-- KEYEXP, the one command that writes W, NK and KS_VALID (10_state.md R36). -/
def writesSchedule : Instr → Bool
  | .keyexp _ => true
  | _ => false

/-- The commands that write CV (R36). -/
def writesCv : Instr → Bool
  | .cbcinit _ => true
  | .cbcencb _ => true
  | .cbcencf _ => true
  | .cbcdecb _ => true
  | .cbcdecf _ => true
  | _ => false

/-- The command that writes CV_VALID (R20, R36). -/
def writesCvValid : Instr → Bool
  | .cbcinit _ => true
  | _ => false

/-- The commands that write CB (R36). -/
def writesCb : Instr → Bool
  | .ctrinit _ => true
  | .ctrencb _ => true
  | .ctrencf _ => true
  | .ctrdecb _ => true
  | .ctrdecf _ => true
  | _ => false

/-- The command that writes CB_VALID (R20, R36). -/
def writesCbValid : Instr → Bool
  | .ctrinit _ => true
  | _ => false

/-- The commands that read W, NK and KS_VALID (R36), which are those that need KS_VALID (60_exceptions.md R204). -/
def usesSchedule : Instr → Bool
  | .addrk _ _ => true
  | .rdrk _ => true
  | .encblk _ => true
  | .decblk _ => true
  | .cbcencb _ => true
  | .cbcencf _ => true
  | .cbcdecb _ => true
  | .cbcdecf _ => true
  | .ctrencb _ => true
  | .ctrencf _ => true
  | .ctrdecb _ => true
  | .ctrdecf _ => true
  | _ => false

/-- The commands that read CV and CV_VALID (R36), which are those that need CV_VALID (R204). -/
def usesCv : Instr → Bool
  | .cbcencb _ => true
  | .cbcencf _ => true
  | .cbcdecb _ => true
  | .cbcdecf _ => true
  | .rdcv => true
  | _ => false

/-- The commands that read CB and CB_VALID (R36), which are those that need CB_VALID (R204). -/
def usesCb : Instr → Bool
  | .ctrencb _ => true
  | .ctrencf _ => true
  | .ctrdecb _ => true
  | .ctrdecf _ => true
  | .rdctr => true
  | _ => false

/-- The block operand (BK) of a command that has one (30_encoding.md R74). -/
def blockOperand : Instr → Option (List Byte)
  | .subb data => some data
  | .isubb data => some data
  | .shrows data => some data
  | .ishrows data => some data
  | .mixcol data => some data
  | .imixcol data => some data
  | .addrk _ data => some data
  | .inc32 data => some data
  | .unpad data => some data
  | .encblk data => some data
  | .decblk data => some data
  | .cbcinit iv => some iv
  | .cbcencb data => some data
  | .cbcdecb data => some data
  | .cbcdecf data => some data
  | .ctrinit ctr => some ctr
  | .ctrencb data => some data
  | .ctrdecb data => some data
  | .ctrdecf data => some data
  | _ => none

/-- The tail operand (PT) of a command that has one (R74). -/
def tailOperand : Instr → Option (List Byte)
  | .pad data => some data
  | .cbcencf data => some data
  | .ctrencf data => some data
  | _ => none

/-- The key operand (KY) of KEYEXP (R74). -/
def keyOperand : Instr → Option (List Byte)
  | .keyexp key => some key
  | _ => none

/-- Check 3 of R208: a length that is not legal for the opcode (R74, R202, R203). -/
def lengthError (i : Instr) : Option CmdError :=
  if ∃ data ∈ blockOperand i, data.length ≠ 16 then some .invalidBlockLength
  else if ∃ data ∈ tailOperand i, data.length > 15 then some .invalidBlockLength
  else if ∃ key ∈ keyOperand i, key.length ∉ [16, 24, 32] then some .invalidKeyLength
  else none

/-- Check 4 of R208: a flag the command needs is 0 (R204). -/
def missingFlag (i : Instr) (s : State) : Bool :=
  usesSchedule i && !s.ksValid || usesCv i && !s.cvValid || usesCb i && !s.cbValid

/-- Check 5 of R208: an operand value out of range (R91, R205 (d)). -/
def operandOutOfRange (i : Instr) (s : State) : Bool :=
  match i with
  | .rcon j => j == 0
  | .rdrk k => k.toNat ≥ 4 * (keyWords s.nk + 7)
  | .addrk rk _ => rk.toNat > keyWords s.nk + 6
  | _ => false

/-- The block whose last byte check 6 of R208 examines (R207). -/
def unpaddedBlock (i : Instr) (s : State) : Option Block :=
  match i with
  | .unpad data => some (blockOfBytes data)
  | .cbcdecf data => some (xorBlock (decryptUnder s (blockOfBytes data)) s.cv)
  | .ctrdecf data => some (xorBlock (blockOfBytes data) (encryptUnder s s.cb))
  | _ => none

/-- Check 6 of R208: the last byte is 0 or greater than 16 (R207). -/
def badPadding (i : Instr) (s : State) : Bool :=
  match unpaddedBlock i s with
  | some d => d[15].toNat == 0 || d[15].toNat > 16
  | none => false

/-- The status of a well-framed command, in the order of R208's checks 3 to 6; `none` is OK. -/
def expectedError (i : Instr) (s : State) : Option CmdError :=
  match lengthError i with
  | some e => some e
  | none =>
    if missingFlag i s then some .notReady
    else if operandOutOfRange i s then some .illegalCommand
    else if badPadding i s then some .invalidPadding
    else none

/-- The total length a request must have, from its first bytes (R72, R73); `none` where byte 0 is no opcode (R90). -/
def requiredLength : List Byte → Option Nat
  | [] => none
  | op :: rest =>
    if op ∈ [0x45, 0x55] then some 1
    else if op ∈ [0x02, 0x03, 0x06, 0x21] then some 2
    else if op = 0x01 then some 3
    else if op ∈ [0x04, 0x05] then some 5
    else if op = 0x16 then some (3 + (rest.getD 1 0).toNat)
    else if op ∈ [0x10, 0x11, 0x12, 0x13, 0x14, 0x15, 0x17, 0x18, 0x19, 0x20, 0x30, 0x31, 0x40, 0x41, 0x42, 0x43,
      0x44, 0x50, 0x51, 0x52, 0x53, 0x54] then some (2 + (rest.getD 0 0).toNat)
    else none

/-- The opcodes R90 lists as illegal. -/
def illegalOpcode (op : Byte) : Prop :=
  op = 0x00 ∨ 0x07 ≤ op ∧ op ≤ 0x0F ∨ 0x1A ≤ op ∧ op ≤ 0x1F ∨ 0x22 ≤ op ∧ op ≤ 0x2F ∨ 0x32 ≤ op ∧ op ≤ 0x3F ∨
    0x46 ≤ op ∧ op ≤ 0x4F ∨ 0x56 ≤ op

/-- The product of two bytes as polynomials over GF(2), 15 bits, not yet reduced (40_gf_arithmetic.md R100). -/
def polyProduct (a b : Byte) : BitVec 16 :=
  (List.range 8).foldl (fun p k => if b.getLsbD k then p ^^^ (a.zeroExtend 16 <<< k) else p) 0

/-- The remainder modulo x^8 + x^4 + x^3 + x + 1, bit 14 down to bit 8 (R100). -/
def polyReduce (p : BitVec 16) : Byte :=
  ([6, 5, 4, 3, 2, 1, 0].foldl (fun q k => if q.getLsbD (8 + k) then q ^^^ ((0x11b : BitVec 16) <<< k) else q) p).truncate 8

/-- One column of four bytes through the circulant matrix with first row `m0 m1 m2 m3`, later rows rotated right
(43_round_transform.md R137). -/
def mixedColumn (m0 m1 m2 m3 x0 x1 x2 x3 : Byte) : List Byte :=
  [gfmul m0 x0 ^^^ gfmul m1 x1 ^^^ gfmul m2 x2 ^^^ gfmul m3 x3,
   gfmul m3 x0 ^^^ gfmul m0 x1 ^^^ gfmul m1 x2 ^^^ gfmul m2 x3,
   gfmul m2 x0 ^^^ gfmul m3 x1 ^^^ gfmul m0 x2 ^^^ gfmul m1 x3,
   gfmul m1 x0 ^^^ gfmul m2 x1 ^^^ gfmul m3 x2 ^^^ gfmul m0 x3]

/-- The 16 bytes of round key `rk`: words 4rk to 4rk + 3 in order (R140, 20_memory.md R48). -/
def roundKeyBytes (w : Vector Word 60) (rk : Nat) : List Byte :=
  wordBytes (wordAt w (4 * rk)) ++ wordBytes (wordAt w (4 * rk + 1)) ++ wordBytes (wordAt w (4 * rk + 2)) ++
    wordBytes (wordAt w (4 * rk + 3))

/-- XOR of two byte strings, byte by byte. -/
def xorBytes (x y : List Byte) : List Byte := List.zipWith (· ^^^ ·) x y

/-- Two states that no command can tell apart: the same flags, the same channels, and the same registers wherever a
flag lets a command read them (10_state.md R34, U7, U8). -/
structure SameVisible (s t : State) : Prop where
  ksValid : s.ksValid = t.ksValid
  cvValid : s.cvValid = t.cvValid
  cbValid : s.cbValid = t.cbValid
  nk : s.ksValid = true → s.nk = t.nk
  w : s.ksValid = true → ∀ i < scheduleLength s.nk, wordAt s.w i = wordAt t.w i
  cv : s.cvValid = true → s.cv = t.cv
  cb : s.cbValid = true → s.cb = t.cb
  inbox : s.inbox = t.inbox
  outbox : s.outbox = t.outbox

end Sys2Proof.Machine
end

