-- ==== Sys2Proof/Certificates/Slice0/Obligations.lean ====
section
/-! DEFINITION. The statements for the provers, each from a numbered rule of spec/ (OBLIGATIONS.json says which). -/

open Sys2Proof Sys2Proof.Machine

/-! ## The step, the decoder and reset -/

/-- 30_encoding.md section 1: a step takes the next event. A request that decodes is executed; one that does not is
answered IllegalCommand; a reset event resets; with no event the block holds its state (log 3, log 4). -/
def Obligations.StepTakesTheNextEvent : Prop :=
  ∀ s : State,
    (s.inbox = [] → step s = .next s) ∧
    ∀ rest,
      (s.inbox = .reset :: rest →
        step s = .next { State.reset with staleCount := s.staleCount, inbox := rest, outbox := s.outbox }) ∧
      ∀ bytes, s.inbox = .request bytes :: rest →
        (∀ i, decode bytes = .ok i → step s = exec i { s with inbox := rest }) ∧
        ∀ r, decode bytes = .error r →
          step s = .next (State.answer { s with inbox := rest } (.error .illegalCommand))

/-- 30_encoding.md sections 2 and 4: requests of every format and of every group of the opcode map, as the spec's worked
examples write them out in bytes (30_encoding.md section 6 and files 40 to 46). -/
def Obligations.SpecRequestsDecode : Prop :=
  decode [0x01, 0x57, 0x83] = .ok (.gfmul 0x57 0x83) ∧
  decode [0x02, 0x53] = .ok (.sbox 0x53) ∧
  decode [0x04, 0x09, 0xcf, 0x4f, 0x3c] = .ok (.rotw 0x09cf4f3c) ∧
  decode [0x06, 0x0a] = .ok (.rcon 0x0a) ∧
  decode [0x16, 0x00, 0x10, 0x32, 0x43, 0xf6, 0xa8, 0x88, 0x5a, 0x30, 0x8d, 0x31, 0x31, 0x98, 0xa2, 0xe0, 0x37, 0x07,
    0x34] = .ok (.addrk 0x00 [0x32, 0x43, 0xf6, 0xa8, 0x88, 0x5a, 0x30, 0x8d, 0x31, 0x31, 0x98, 0xa2, 0xe0, 0x37,
    0x07, 0x34]) ∧
  decode [0x18, 0x05, 0x6b, 0xc1, 0xbe, 0xe2, 0x2e] = .ok (.pad [0x6b, 0xc1, 0xbe, 0xe2, 0x2e]) ∧
  decode [0x21, 0x2c] = .ok (.rdrk 0x2c) ∧
  decode [0x30, 0x10, 0x32, 0x43, 0xf6, 0xa8, 0x88, 0x5a, 0x30, 0x8d, 0x31, 0x31, 0x98, 0xa2, 0xe0, 0x37, 0x07, 0x34] =
    .ok (.encblk [0x32, 0x43, 0xf6, 0xa8, 0x88, 0x5a, 0x30, 0x8d, 0x31, 0x31, 0x98, 0xa2, 0xe0, 0x37, 0x07, 0x34]) ∧
  decode [0x42, 0x00] = .ok (.cbcencf []) ∧
  decode [0x45] = .ok .rdcv ∧
  decode [0x55] = .ok .rdctr

/-- 10_state.md section 8, 70_reset_and_hazards.md section 1: after reset, and after a reset event in any state, the
three flags are 0. That nothing has been sent or answered at `State.reset` is the model's choice (log 3). -/
def Obligations.ResetClearsTheFlags : Prop :=
  (State.reset.ksValid = false ∧ State.reset.cvValid = false ∧ State.reset.cbValid = false ∧
    State.reset.inbox = [] ∧ State.reset.outbox = []) ∧
  ∀ (s : State) (rest : List HostEvent), s.inbox = .reset :: rest →
    ∃ t, step s = .next t ∧ t.ksValid = false ∧ t.cvValid = false ∧ t.cbValid = false ∧
      t.inbox = rest ∧ t.outbox = s.outbox

/-- R73: a request whose total length is not the one its format gives is answered IllegalCommand, before any other
check, whatever its length field says. With it: a request is a command exactly when its opcode is in the map and its
length is that one, and otherwise nothing changes. -/
def Obligations.FramingIsChecked : Prop :=
  ∀ (s : State) (req : List Byte) (rest : List HostEvent), s.inbox = .request req :: rest →
    (requiredLength req = some req.length ↔ ∃ i, decode req = .ok i) ∧
    (requiredLength req ≠ some req.length →
      step s = .next (State.answer { s with inbox := rest } (.error .illegalCommand)))

/-- R90: the 224 opcodes outside the map are IllegalCommand at any length and whatever the other bytes, and change
nothing. -/
def Obligations.UnlistedOpcodesAreIllegal : Prop :=
  (∀ op : Byte, illegalOpcode op ↔ shapeOf op = none) ∧
  ((List.range 256).filter fun n => (shapeOf (byteOfNat n)).isNone).length = 224 ∧
  ∀ (s : State) (op : Byte) (operands : List Byte) (rest : List HostEvent),
    illegalOpcode op → s.inbox = .request (op :: operands) :: rest →
      step s = .next (State.answer { s with inbox := rest } (.error .illegalCommand))

/-- 30_encoding.md sections 2 and 4: decoding the request of a well-formed command gives the command, every operand
bit kept. -/
def Obligations.DecodeOfEncode : Prop :=
  ∀ i : Instr, i.wellFormed = true → decode (encode i) = .ok i

/-- 30_encoding.md sections 2 and 4: every request that decodes is the request of the command it decodes to, so that
no command has two requests. -/
def Obligations.EncodeOfDecode : Prop :=
  ∀ (req : List Byte) (i : Instr), decode req = .ok i → i.wellFormed = true ∧ encode i = req

/-! ## Responses, errors, what a command writes and reads -/

/-- 60_exceptions.md section 1: the status bytes, and that a response other than OK is that one byte. -/
def Obligations.StatusBytes : Prop :=
  (∀ p, responseBytes (.ok p) = 0x00 :: p) ∧
  responseBytes (.error .invalidKeyLength) = [0x01] ∧
  responseBytes (.error .invalidBlockLength) = [0x02] ∧
  responseBytes (.error .invalidPadding) = [0x03] ∧
  responseBytes (.error .notReady) = [0x04] ∧
  responseBytes (.error .illegalCommand) = [0x05]

/-- 00_scope.md section 5, 30_encoding.md section 1, 70_reset_and_hazards.md section 4: every command in every state
completes with exactly one response, and takes nothing more from the host. -/
def Obligations.EveryCommandAnswersOnce : Prop :=
  ∀ (i : Instr) (s : State),
    ∃ t r, exec i s = .next t ∧ t.outbox = s.outbox ++ [r] ∧ t.inbox = s.inbox

/-- R76: byte 0 of a response is the status; a response other than OK is that one byte; an OK payload has the form the
opcode fixes, so that an OK response is 1, 2, 5, 17 or 2 to 17 bytes long. -/
def Obligations.PayloadHasTheOpcodesForm : Prop :=
  (∀ p, responseBytes (.ok p) = 0x00 :: p) ∧ (∀ e, responseBytes (.error e) = [statusCode e] ∧ statusCode e ≠ 0x00) ∧
  ∀ (i : Instr) (s t : State) (p : List Byte),
    exec i s = .next t → t.outbox = s.outbox ++ [.ok p] →
      hasForm (payloadForm i) p = true ∧ (responseBytes (.ok p)).length ∈ [1, 2, 5, 17] ++ List.range' 2 16

/-- R202, R203, R204, R205, R208: which status a request reports, in the order of the checks: opcode and framing, then
the length, the flags, the operand range, and at the end the padding. A command with none of these errors answers OK,
but for InvalidPadding where a block is unpadded, which is the one thing the parameter `UNPAD_STRICT` decides, so that
the statement holds for both its values. -/
def Obligations.ErrorsInOrderOfPriority : Prop :=
  (∀ (s : State) (req : List Byte) (rest : List HostEvent), s.inbox = .request req :: rest →
    (requiredLength req ≠ some req.length → ∃ t, step s = .next t ∧ t.outbox = s.outbox ++ [.error .illegalCommand]) ∧
    (requiredLength req = some req.length →
      ∃ i, decode req = .ok i ∧ step s = exec i { s with inbox := rest })) ∧
  ∀ (i : Instr) (s : State), ∃ t, exec i s = .next t ∧
    (∀ e, expectedError i s = some e → t.outbox = s.outbox ++ [.error e]) ∧
    (expectedError i s = none →
      (∃ p, t.outbox = s.outbox ++ [.ok p]) ∨
        unpaddedBlock i s ≠ none ∧ t.outbox = s.outbox ++ [.error .invalidPadding])

/-- 60_exceptions.md section 2: no byte but the last is examined for InvalidPadding, so that a command with none of the
errors answers OK. It rests on the default of `UNPAD_STRICT`, which the model takes (log 6). -/
def Obligations.CommandsWithNoErrorAnswerOk : Prop :=
  ∀ (i : Instr) (s : State), expectedError i s = none → ∃ t p, exec i s = .next t ∧ t.outbox = s.outbox ++ [.ok p]

/-- R206: a command that ends with a status other than OK leaves W, NK, CV, CB and the three flags as they were, and
the response carries nothing. -/
def Obligations.ErrorWritesNothing : Prop :=
  ∀ (i : Instr) (s t : State) (e : CmdError),
    exec i s = .next t → t.outbox = s.outbox ++ [.error e] → t = s.answer (.error e)

/-- 10_state.md section 9, the column of writes, as the frame of every command: what a command leaves unchanged. -/
def Obligations.CommandsWriteOnlyTheirRegisters : Prop :=
  ∀ (i : Instr) (s t : State), exec i s = .next t →
    (writesSchedule i = false → t.w = s.w ∧ t.nk = s.nk ∧ t.ksValid = s.ksValid ∧ t.staleCount = s.staleCount) ∧
    (writesCv i = false → t.cv = s.cv) ∧ (writesCvValid i = false → t.cvValid = s.cvValid) ∧
    (writesCb i = false → t.cb = s.cb) ∧ (writesCbValid i = false → t.cbValid = s.cbValid) ∧
    t.inbox = s.inbox

/-- 10_state.md section 9, the column of reads: two states that agree on the registers a command reads give the same response and the
same written values, whatever else differs. -/
def Obligations.CommandsReadOnlyTheirRegisters : Prop :=
  ∀ (i : Instr) (s s' t t' : State),
    (usesSchedule i = true → s.w = s'.w ∧ s.nk = s'.nk ∧ s.ksValid = s'.ksValid) →
    (usesCv i = true → s.cv = s'.cv ∧ s.cvValid = s'.cvValid) →
    (usesCb i = true → s.cb = s'.cb ∧ s.cbValid = s'.cbValid) →
    exec i s = .next t → exec i s' = .next t' →
    ∃ r, t.outbox = s.outbox ++ [r] ∧ t'.outbox = s'.outbox ++ [r] ∧
      ((∃ p, r = .ok p) →
        (writesSchedule i = true → t.nk = t'.nk ∧ t.ksValid = t'.ksValid ∧
          ∀ k < scheduleLength t.nk, wordAt t.w k = wordAt t'.w k) ∧
        (writesCv i = true → t.cv = t'.cv) ∧ (writesCvValid i = true → t.cvValid = t'.cvValid) ∧
        (writesCb i = true → t.cb = t'.cb) ∧ (writesCbValid i = true → t.cbValid = t'.cbValid))

/-- 10_state.md section 5: the flags rise only by a KEYEXP, CBCINIT or CTRINIT answered OK, and fall only by a reset
event. -/
def Obligations.FlagsFallOnlyByReset : Prop :=
  ∀ s t : State, step s = .next t →
    (∀ rest, s.inbox ≠ .reset :: rest) →
      (s.ksValid = true → t.ksValid = true) ∧ (s.cvValid = true → t.cvValid = true) ∧
      (s.cbValid = true → t.cbValid = true) ∧
      (s.ksValid = false → t.ksValid = true → ∃ key rest, s.inbox = .request (encode (.keyexp key)) :: rest ∧
        t.outbox = s.outbox ++ [.ok []]) ∧
      (s.cvValid = false → t.cvValid = true → ∃ iv rest, s.inbox = .request (encode (.cbcinit iv)) :: rest ∧
        t.outbox = s.outbox ++ [.ok []]) ∧
      (s.cbValid = false → t.cbValid = true → ∃ ctr rest, s.inbox = .request (encode (.ctrinit ctr)) :: rest ∧
        t.outbox = s.outbox ++ [.ok []])

/-- 10_state.md section 2 (the schedule and its key size cannot disagree) and 30_encoding.md section 3: the invariant
of the machine, kept by every step from every state that meets it. -/
def Obligations.InvKeptByEveryStep : Prop :=
  ∀ s t : State, Inv s → step s = .next t → Inv t

/-- The machine right after reset meets the invariant. -/
def Obligations.InvHoldsAtReset : Prop := Inv State.reset

/-- 10_state.md section 8, 93_implementation_defined.md U7 and U8: no response and no register that a command can read
ever depends on a value the spec calls "no value": two states that differ only in such values step alike. It makes the
reset values the model chose (log 1) and the free values (log 2) unobservable. -/
def Obligations.UnsetValuesAreNeverObserved : Prop :=
  ∀ s s' t : State, SameVisible s s' → step s = .next t → ∃ t', step s' = .next t' ∧ SameVisible t t'

/-! ## Byte and word units -/

/-- 40_gf_arithmetic.md section 1: GFMUL answers the product of the two polynomials modulo x^8 + x^4 + x^3 + x + 1. -/
def Obligations.GfmulIsPolynomialProduct : Prop :=
  ∀ (a b : Byte) (s : State),
    exec (.gfmul a b) s = .next (s.answer (.ok [polyReduce (polyProduct a b)]))

/-- 40_gf_arithmetic.md section 1: the laws of the field multiplication (R102, which the spec marks as derived). -/
def Obligations.GaloisFieldLaws : Prop :=
  (∀ a : Byte, gfmul a 1 = a ∧ gfmul a 0 = 0 ∧ gfmul 1 a = a ∧ gfmul 0 a = 0) ∧
  (∀ a b : Byte, gfmul a b = gfmul b a) ∧
  (∀ a b c : Byte, gfmul (gfmul a b) c = gfmul a (gfmul b c)) ∧
  (∀ a b c : Byte, gfmul a (b ^^^ c) = gfmul a b ^^^ gfmul a c) ∧
  ∀ a : Byte, a ≠ 0 → ∃ x, gfmul a x = 1 ∧ ∀ y, gfmul a y = 1 → y = x

/-- 40_gf_arithmetic.md section 1: doubling, and the other MixColumns constants made from it (R103, which the spec marks
as derived). -/
def Obligations.DoublingForms : Prop :=
  ∀ a : Byte,
    xtime a = gfmul 2 a ∧
    xtime a = (a <<< 1) ^^^ (if a.getLsbD 7 then 0x1b else 0x00) ∧
    gfmul 3 a = xtime a ^^^ a ∧
    gfmul 9 a = xtime (xtime (xtime a)) ^^^ a ∧
    gfmul 11 a = xtime (xtime (xtime a) ^^^ a) ^^^ a ∧
    gfmul 13 a = xtime (xtime (xtime a ^^^ a)) ^^^ a ∧
    gfmul 14 a = xtime (xtime (xtime a ^^^ a) ^^^ a)

/-- R104, and the command RCON: the constant starts at 0x01, doubles in the field and has period 51; RCON answers
its word, and refuses j = 0. -/
def Obligations.RoundConstants : Prop :=
  (rc 1 = 0x01 ∧ ∀ j, 1 < j → rc j = xtime (rc (j - 1))) ∧
  (List.range' 1 15).map rc =
    [0x01, 0x02, 0x04, 0x08, 0x10, 0x20, 0x40, 0x80, 0x1b, 0x36, 0x6c, 0xd8, 0xab, 0x4d, 0x9a] ∧
  (∀ j, 1 ≤ j → rc (j + 51) = rc j ∧ rcon j = wordOfBytes (rc j) 0 0 0) ∧
  rc 52 = 0x01 ∧ rc 51 = 0x8d ∧ rc 255 = 0x8d ∧
  (∀ (j : Byte) (s : State), j ≠ 0 → exec (.rcon j) s = .next (s.answer (.ok [rc j.toNat, 0, 0, 0]))) ∧
  ∀ s : State, exec (.rcon 0) s = .next (s.answer (.error .illegalCommand))

/-- 20_memory.md section 2 and 41_sbox_units.md section 1: SBOX and ISBOX answer the tables' entries; the tables are
inverse permutations with no fixed point and no complement (R46, which the spec marks as derived). -/
def Obligations.SubstitutionTables : Prop :=
  (∀ a b : Byte, sbox a = sbox b → a = b) ∧ (∀ b : Byte, ∃ a, sbox a = b) ∧
  (∀ a : Byte, isbox (sbox a) = a ∧ sbox (isbox a) = a ∧ sbox a ≠ a ∧ sbox a ≠ a ^^^ 0xff) ∧
  sbox 0x00 = 0x63 ∧ isbox 0x00 = 0x52 ∧
  ∀ (a : Byte) (s : State),
    exec (.sbox a) s = .next (s.answer (.ok [sbox a])) ∧
    exec (.isbox a) s = .next (s.answer (.ok [isbox a])) ∧
    exec (.isbox (sbox a)) s = .next (s.answer (.ok [a]))

/-- 20_memory.md section 2: SBOX answers the standard's definition, the affine map of the multiplicative inverse
(0 for 0). R43 marks the definition as "from general knowledge" (log 7). -/
def Obligations.SboxIsAffineOfInverse : Prop :=
  ∀ (a x : Byte) (s : State),
    (a = 0 → x = 0) → (a ≠ 0 → gfmul a x = 1) →
      exec (.sbox a) s = .next (s.answer (.ok [sboxAffine x]))

/-- 41_sbox_units.md section 2, the commands SUBW and ROTW: bytes keep their place under SubWord and move one place to the front under
RotWord, which is a rotation of the number by 8 bits and has order four. That the two commute is R116, which the spec
marks as derived. -/
def Obligations.WordUnits : Prop :=
  (∀ (b0 b1 b2 b3 : Byte) (s : State),
    exec (.subw (wordOfBytes b0 b1 b2 b3)) s = .next (s.answer (.ok [sbox b0, sbox b1, sbox b2, sbox b3])) ∧
    exec (.rotw (wordOfBytes b0 b1 b2 b3)) s = .next (s.answer (.ok [b1, b2, b3, b0]))) ∧
  (∀ w : Word, ∃ b0 b1 b2 b3, w = wordOfBytes b0 b1 b2 b3) ∧
  ∀ w : Word, rotWord w = w.rotateLeft 8 ∧ rotWord (rotWord (rotWord (rotWord w))) = w ∧
    subWord (rotWord w) = rotWord (subWord w)

/-! ## State and block units -/

/-- R131, and the commands SUBB and ISUBB: sixteen independent lookups, inverse to each other. -/
def Obligations.SubBytesAndItsInverse : Prop :=
  (∀ (S : Matrix) (r c : Fin 4),
    cell (subBytes S) r c = sbox (cell S r c) ∧ cell (invSubBytes S) r c = isbox (cell S r c)) ∧
  (∀ S : Matrix, invSubBytes (subBytes S) = S ∧ subBytes (invSubBytes S) = S) ∧
  ∀ (data : List Byte) (s : State), data.length = 16 →
    exec (.subb data) s = .next (s.answer (.ok (data.map sbox))) ∧
    exec (.isubb data) s = .next (s.answer (.ok (data.map isbox)))

/-- R134, and the commands SHROWS and ISHROWS: row r moves r places left, or right; the block's permutations. -/
def Obligations.ShiftRowsAndItsInverse : Prop :=
  (∀ (S : Matrix) (r c : Fin 4),
    cell (shiftRows S) r c = cell S r (c + r) ∧ cell (invShiftRows S) r c = cell S r (c - r)) ∧
  (∀ S : Matrix, invShiftRows (shiftRows S) = S ∧ shiftRows (invShiftRows S) = S ∧
    (shiftRows S)[0] = S[0] ∧ (invShiftRows S)[0] = S[0] ∧ (shiftRows S)[2] = (invShiftRows S)[2]) ∧
  ∀ (b0 b1 b2 b3 b4 b5 b6 b7 b8 b9 b10 b11 b12 b13 b14 b15 : Byte) (s : State),
    exec (.shrows [b0, b1, b2, b3, b4, b5, b6, b7, b8, b9, b10, b11, b12, b13, b14, b15]) s =
      .next (s.answer (.ok [b0, b5, b10, b15, b4, b9, b14, b3, b8, b13, b2, b7, b12, b1, b6, b11])) ∧
    exec (.ishrows [b0, b1, b2, b3, b4, b5, b6, b7, b8, b9, b10, b11, b12, b13, b14, b15]) s =
      .next (s.answer (.ok [b0, b13, b10, b7, b4, b1, b14, b11, b8, b5, b2, b15, b12, b9, b6, b3]))

/-- 43_round_transform.md section 4: MIXCOL and IMIXCOL take each column through the circulant matrix of {2,3,1,1}, or of
{14,11,13,9}, and undo each other. That the list is the first row and later rows rotate right is marked by R137 as "from
general knowledge" (log 7). -/
def Obligations.MixColumnsAndItsInverse : Prop :=
  (∀ S : Matrix, invMixColumns (mixColumns S) = S ∧ mixColumns (invMixColumns S) = S) ∧
  ∀ (b0 b1 b2 b3 b4 b5 b6 b7 b8 b9 b10 b11 b12 b13 b14 b15 : Byte) (s : State),
    exec (.mixcol [b0, b1, b2, b3, b4, b5, b6, b7, b8, b9, b10, b11, b12, b13, b14, b15]) s =
      .next (s.answer (.ok (mixedColumn 2 3 1 1 b0 b1 b2 b3 ++ mixedColumn 2 3 1 1 b4 b5 b6 b7 ++
        mixedColumn 2 3 1 1 b8 b9 b10 b11 ++ mixedColumn 2 3 1 1 b12 b13 b14 b15))) ∧
    exec (.imixcol [b0, b1, b2, b3, b4, b5, b6, b7, b8, b9, b10, b11, b12, b13, b14, b15]) s =
      .next (s.answer (.ok (mixedColumn 14 11 13 9 b0 b1 b2 b3 ++ mixedColumn 14 11 13 9 b4 b5 b6 b7 ++
        mixedColumn 14 11 13 9 b8 b9 b10 b11 ++ mixedColumn 14 11 13 9 b12 b13 b14 b15)))

/-- 43_round_transform.md section 6: a column of MixColumns depends on that column only, linearly over the field, and
SubBytes commutes with ShiftRows; the same for the inverses. -/
def Obligations.RoundOperationsByLanes : Prop :=
  (∀ (S T : Matrix) (c : Fin 4), (∀ r, cell S r c = cell T r c) →
    ∀ r, cell (mixColumns S) r c = cell (mixColumns T) r c ∧ cell (invMixColumns S) r c = cell (invMixColumns T) r c) ∧
  (∀ S T : Matrix, mixColumns (xorMatrix S T) = xorMatrix (mixColumns S) (mixColumns T) ∧
    invMixColumns (xorMatrix S T) = xorMatrix (invMixColumns S) (invMixColumns T)) ∧
  (∀ (a : Byte) (S : Matrix),
    mixColumns (matrixOf fun r c => gfmul a (cell S r c)) = matrixOf (fun r c => gfmul a (cell (mixColumns S) r c)) ∧
    invMixColumns (matrixOf fun r c => gfmul a (cell S r c)) =
      matrixOf (fun r c => gfmul a (cell (invMixColumns S) r c))) ∧
  ∀ S : Matrix, subBytes (shiftRows S) = shiftRows (subBytes S) ∧
    invSubBytes (invShiftRows S) = invShiftRows (invSubBytes S)

/-- 43_round_transform.md section 5: AddRoundKey is XOR with the 16 bytes of the round key and its own inverse; ADDRK
answers it for every round number from 0 to NK + 6, and refuses one above. That a word lines up with a column is marked
by R140 as "from general knowledge" (log 7). -/
def Obligations.AddRoundKeyAndAddrk : Prop :=
  (∀ (w : Vector Word 60) (rk : Nat) (S : Matrix),
    addRoundKey w rk (addRoundKey w rk S) = S ∧
    ∀ r c : Fin 4, cell (addRoundKey w rk S) r c = cell S r c ^^^ wordByte (wordAt w (4 * rk + c.val)) r.val) ∧
  ∀ (rk : Byte) (data : List Byte) (s : State), data.length = 16 → s.ksValid = true →
    (rk.toNat ≤ keyWords s.nk + 6 →
      exec (.addrk rk data) s = .next (s.answer (.ok (xorBytes data (roundKeyBytes s.w rk.toNat))))) ∧
    (rk.toNat > keyWords s.nk + 6 → exec (.addrk rk data) s = .next (s.answer (.error .illegalCommand)))

/-- R180, and the command INC32: the low 32 bits, big-endian, plus 1 modulo 2^32; the upper 96 bits unchanged. -/
def Obligations.CounterIncrement : Prop :=
  (∀ x : Block, (counterField (inc32 x)).toNat = ((counterField x).toNat + 1) % 2 ^ 32 ∧
    (counterField x).toNat = x[12].toNat * 2 ^ 24 + x[13].toNat * 2 ^ 16 + x[14].toNat * 2 ^ 8 + x[15].toNat ∧
    ∀ k (h : k < 12), (inc32 x)[k] = x[k]) ∧
  (∀ (upper : List Byte) (v : Word) (s : State), upper.length = 12 →
    exec (.inc32 (upper ++ wordBytes v)) s = .next (s.answer (.ok (upper ++ wordBytes (v + 1))))) ∧
  ∀ (upper : List Byte) (s : State), upper.length = 12 →
    exec (.inc32 (upper ++ [0xff, 0xff, 0xff, 0xff])) s =
      .next (s.answer (.ok (upper ++ [0x00, 0x00, 0x00, 0x00])))

/-- R160, and the command PAD: a tail of n bytes gets 16 − n bytes of value 16 − n; for a whole message, a multiple of
16 bytes strictly longer than the message, whose last block is the padded tail. -/
def Obligations.PaddingAlwaysAppends : Prop :=
  (∀ (t : List Byte) (s : State), t.length ≤ 15 →
    exec (.pad t) s =
      .next (s.answer (.ok (t ++ List.replicate (16 - t.length) (BitVec.ofNat 8 (16 - t.length))))) ∧
    (t ++ List.replicate (16 - t.length) (BitVec.ofNat 8 (16 - t.length))).length = 16) ∧
  ∀ msg : List Byte,
    (padMessage msg).length = 16 * (msg.length / 16 + 1) ∧ msg.length < (padMessage msg).length ∧
    padMessage msg = msg.take (16 * (msg.length / 16)) ++ padFinal (msg.drop (16 * (msg.length / 16)))

/-- R161: the last byte is the count, 1 to 16, else InvalidPadding, and no other byte is examined; with `UNPAD_STRICT`
every pad byte must be the count; a byte string is unpadded in its last block; unpadding undoes padding, whichever value
the parameter has. -/
def Obligations.UnpaddingReadsTheLastByte : Prop :=
  (∀ (d : Block) (strict : Bool), d[15].toNat = 0 ∨ d[15].toNat > 16 → unpadFinal strict d = .error .invalidPadding) ∧
  (∀ d : Block, 1 ≤ d[15].toNat → d[15].toNat ≤ 16 →
    unpadFinal false d = .ok ((blockBytes d).take (16 - d[15].toNat)) ∧
    ((∃ k : Fin 16, 16 - d[15].toNat ≤ k.val ∧ d[k] ≠ d[15]) → unpadFinal true d = .error .invalidPadding) ∧
    ((∀ k : Fin 16, 16 - d[15].toNat ≤ k.val → d[k] = d[15]) →
      unpadFinal true d = .ok ((blockBytes d).take (16 - d[15].toNat)))) ∧
  (∀ (m t : List Byte) (d : Block) (strict : Bool), m.length % 16 = 0 →
    (unpadFinal strict d = .ok t → unpadMessage strict (m ++ blockBytes d) = .ok (m ++ t)) ∧
    (∀ e, unpadFinal strict d = .error e → unpadMessage strict (m ++ blockBytes d) = .error e)) ∧
  (∀ (t : List Byte) (strict : Bool), t.length ≤ 15 → unpadFinal strict (blockOfBytes (padFinal t)) = .ok t) ∧
  ∀ (msg : List Byte) (strict : Bool), unpadMessage strict (padMessage msg) = .ok msg

/-- 45_padding_cbc.md section 1: UNPAD answers the number of bytes left and the bytes, or InvalidPadding. It rests on the
default of `UNPAD_STRICT`, which the model takes (log 6). -/
def Obligations.UnpadAnswersCountedBytes : Prop :=
  ∀ (data : List Byte) (s : State) (p : Nat), data.length = 16 → p = (data.getD 15 0).toNat →
    (1 ≤ p ∧ p ≤ 16 →
      exec (.unpad data) s = .next (s.answer (.ok (BitVec.ofNat 8 (16 - p) :: data.take (16 - p))))) ∧
    (p = 0 ∨ 16 < p → exec (.unpad data) s = .next (s.answer (.error .invalidPadding)))

/-! ## Key schedule -/

/-- 42_key_schedule.md section 1: for a key of a legal length KEYEXP leaves in the store the key's words, then each word
by the recurrence of the key schedule (R121), with the round constant of its own boundary; nothing else of the block
changes. That key word i is key bytes 4i to 4i + 3 in order is marked by R52 as "from general knowledge" (log 7). -/
def Obligations.KeyexpBuildsTheSchedule : Prop :=
  ∀ (k : KeyLen) (key : List Byte) (s : State), key.length = 4 * keyWords k →
    ∃ t, exec (.keyexp key) s = .next t ∧ t.nk = k ∧ t.ksValid = true ∧ t.outbox = s.outbox ++ [.ok []] ∧
      (t.cv = s.cv ∧ t.cvValid = s.cvValid ∧ t.cb = s.cb ∧ t.cbValid = s.cbValid ∧ t.inbox = s.inbox) ∧
      (∀ i < keyWords k, wordBytes (wordAt t.w i) = (key.drop (4 * i)).take 4) ∧
      ∀ i, keyWords k ≤ i → i < 4 * (keyWords k + 7) →
        wordAt t.w i = wordAt t.w (i - keyWords k) ^^^
          (if i % keyWords k = 0 then subWord (rotWord (wordAt t.w (i - 1))) ^^^ rcon (i / keyWords k)
           else if keyWords k = 8 ∧ i % keyWords k = 4 then subWord (wordAt t.w (i - 1))
           else wordAt t.w (i - 1))

/-- 42_key_schedule.md section 1 (Laws) and section 2: the schedule is a function of the key alone, from whatever
states it is expanded; and RDRK then reads it, word by word, and refuses an index beyond it. -/
def Obligations.RdrkReadsTheSchedule : Prop :=
  (∀ (k : KeyLen) (key : List Byte) (s s' t t' : State), key.length = 4 * keyWords k →
    exec (.keyexp key) s = .next t → exec (.keyexp key) s' = .next t' →
      t.nk = t'.nk ∧ ∀ i < 4 * (keyWords k + 7), wordAt t.w i = wordAt t'.w i) ∧
  (∀ (i : Byte) (s : State), s.ksValid = false → exec (.rdrk i) s = .next (s.answer (.error .notReady))) ∧
  ∀ (i : Byte) (s : State), s.ksValid = true →
    (i.toNat < 4 * (keyWords s.nk + 7) → exec (.rdrk i) s = .next (s.answer (.ok (wordBytes (wordAt s.w i.toNat))))) ∧
    (4 * (keyWords s.nk + 7) ≤ i.toNat → exec (.rdrk i) s = .next (s.answer (.error .illegalCommand)))

/-! ## Cipher engine -/

/-- R150 and 44_cipher_engine.md sections 2 and 3: ENCBLK and DECBLK answer the round structure, round keys 0 to Nr
in ascending order, or Nr to 0 in descending order, with Nr = NK + 6 of the stored schedule. -/
def Obligations.CipherRunsTheRounds : Prop :=
  ∀ (data : List Byte) (s : State) (nr : Nat), data.length = 16 → s.ksValid = true → nr = keyWords s.nk + 6 →
    exec (.encblk data) s = .next (s.answer (.ok (blockBytes (store
      (addRoundKey s.w nr (shiftRows (subBytes
        ((List.range' 1 (nr - 1)).foldl
          (fun S rnd => addRoundKey s.w rnd (mixColumns (shiftRows (subBytes S))))
          (addRoundKey s.w 0 (load (blockOfBytes data))))))))))) ∧
    exec (.decblk data) s = .next (s.answer (.ok (blockBytes (store
      (addRoundKey s.w 0 (invSubBytes (invShiftRows
        ((List.range' 1 (nr - 1)).reverse.foldl
          (fun S rnd => invMixColumns (addRoundKey s.w rnd (invSubBytes (invShiftRows S))))
          (addRoundKey s.w nr (load (blockOfBytes data)))))))))))

/-- 44_cipher_engine.md sections 2 and 3: under one schedule, DECBLK of what ENCBLK answers is the block, and the
reverse, for every schedule and every block. -/
def Obligations.DecryptionInvertsEncryption : Prop :=
  ∀ (data : List Byte) (s s' : State), data.length = 16 → s.ksValid = true → s'.ksValid = true →
    s.w = s'.w → s.nk = s'.nk →
    (∃ c : List Byte, c.length = 16 ∧ exec (.encblk data) s = .next (s.answer (.ok c)) ∧
      exec (.decblk c) s' = .next (s'.answer (.ok data))) ∧
    ∃ p : List Byte, p.length = 16 ∧ exec (.decblk data) s = .next (s.answer (.ok p)) ∧
      exec (.encblk p) s' = .next (s'.answer (.ok data))

/-- 44_cipher_engine.md section 2: the equivalent inverse cipher, with the encrypt order of operations and round keys
passed through InvMixColumns, computes the same function as decryption. R154 marks the structure as "from general
knowledge" (log 7). -/
def Obligations.EquivalentInverseCipher : Prop :=
  ∀ (w : Vector Word 60) (nr : Nat) (b : Block), decryptEquivalent w nr b = decrypt w nr b

/-! ## CBC -/

/-- 45_padding_cbc.md section 2, 46_ctr.md section 2: CBCINIT and CTRINIT load a register and need nothing; RDCV and
RDCTR answer it and change nothing. -/
def Obligations.InitThenReadBack : Prop :=
  (∀ (data : List Byte) (s : State), data.length = 16 →
    (∃ t, exec (.cbcinit data) s = .next t ∧ t.outbox = s.outbox ++ [.ok []] ∧ t.cvValid = true ∧
      exec .rdcv t = .next (t.answer (.ok data))) ∧
    ∃ t, exec (.ctrinit data) s = .next t ∧ t.outbox = s.outbox ++ [.ok []] ∧ t.cbValid = true ∧
      exec .rdctr t = .next (t.answer (.ok data))) ∧
  ∀ s : State,
    (s.cvValid = true → exec .rdcv s = .next (s.answer (.ok (blockBytes s.cv)))) ∧
    (s.cvValid = false → exec .rdcv s = .next (s.answer (.error .notReady))) ∧
    (s.cbValid = true → exec .rdctr s = .next (s.answer (.ok (blockBytes s.cb)))) ∧
    (s.cbValid = false → exec .rdctr s = .next (s.answer (.error .notReady)))

/-- R164, and the commands CBCENCB, CBCENCF, CBCDECB: each encrypted block is the cipher of the plaintext XOR the
chaining value, which it replaces; decryption XORs the old chaining value and keeps the incoming block. -/
def Obligations.CbcBlocksChain : Prop :=
  ∀ s : State, s.ksValid = true → s.cvValid = true →
    (∀ data : List Byte, data.length = 16 →
      (∃ c : Block, c = encrypt s.w (keyWords s.nk + 6) (xorBlock (blockOfBytes data) s.cv) ∧
        exec (.cbcencb data) s = .next ((s.setCv c).answer (.ok (blockBytes c)))) ∧
      exec (.cbcdecb data) s =
        .next ((s.setCv (blockOfBytes data)).answer
          (.ok (blockBytes (xorBlock (decrypt s.w (keyWords s.nk + 6) (blockOfBytes data)) s.cv))))) ∧
    ∀ t : List Byte, t.length ≤ 15 →
      ∃ c : Block, c = encrypt s.w (keyWords s.nk + 6)
          (xorBlock (blockOfBytes (t ++ List.replicate (16 - t.length) (BitVec.ofNat 8 (16 - t.length)))) s.cv) ∧
        exec (.cbcencf t) s = .next ((s.setCv c).answer (.ok (blockBytes c)))

/-- 45_padding_cbc.md section 2: CBCDECF unpads the decrypted block; on InvalidPadding CV is left as it was. Default
`UNPAD_STRICT` (log 6). -/
def Obligations.CbcFinalBlockIsUnpadded : Prop :=
  ∀ (data : List Byte) (s : State) (d : Block), data.length = 16 → s.ksValid = true → s.cvValid = true →
    d = xorBlock (decrypt s.w (keyWords s.nk + 6) (blockOfBytes data)) s.cv →
    (1 ≤ d[15].toNat ∧ d[15].toNat ≤ 16 →
      exec (.cbcdecf data) s = .next ((s.setCv (blockOfBytes data)).answer
        (.ok (BitVec.ofNat 8 (16 - d[15].toNat) :: (blockBytes d).take (16 - d[15].toNat))))) ∧
    (d[15].toNat = 0 ∨ 16 < d[15].toNat → exec (.cbcdecf data) s = .next (s.answer (.error .invalidPadding)))

/-- 45_padding_cbc.md sections 2 and 3: from the same schedule and chaining value, CBCDECB of what CBCENCB answers is
the block, CBCDECF of what CBCENCF answers is the tail, and both sides end with the same chaining value. -/
def Obligations.CbcDecryptsWhatItEncrypts : Prop :=
  ∀ s s' : State, s.ksValid = true → s.cvValid = true → s'.ksValid = true → s'.cvValid = true →
    s.w = s'.w → s.nk = s'.nk → s.cv = s'.cv →
    (∀ data : List Byte, data.length = 16 →
      ∃ c t t', exec (.cbcencb data) s = .next t ∧ t.outbox = s.outbox ++ [.ok c] ∧
        exec (.cbcdecb c) s' = .next t' ∧ t'.outbox = s'.outbox ++ [.ok data] ∧ t.cv = t'.cv) ∧
    ∀ tail : List Byte, tail.length ≤ 15 →
      ∃ c t t', exec (.cbcencf tail) s = .next t ∧ t.outbox = s.outbox ++ [.ok c] ∧
        exec (.cbcdecf c) s' = .next t' ∧
        t'.outbox = s'.outbox ++ [.ok (BitVec.ofNat 8 tail.length :: tail)] ∧ t.cv = t'.cv

/-! ## CTR -/

/-- R189, and the commands CTRENCB, CTRENCF, CTRDECB: the operand XOR the cipher of the counter, in both directions,
and the counter is incremented after use. -/
def Obligations.CtrBlocksUseTheCounter : Prop :=
  ∀ (s : State) (k : Block), s.ksValid = true → s.cbValid = true → k = encrypt s.w (keyWords s.nk + 6) s.cb →
    (∀ data : List Byte, data.length = 16 →
      exec (.ctrencb data) s = .next ((s.setCb (inc32 s.cb)).answer (.ok (xorBytes data (blockBytes k)))) ∧
      exec (.ctrdecb data) s = .next ((s.setCb (inc32 s.cb)).answer (.ok (xorBytes data (blockBytes k))))) ∧
    ∀ t : List Byte, t.length ≤ 15 →
      exec (.ctrencf t) s = .next ((s.setCb (inc32 s.cb)).answer
        (.ok (xorBytes (t ++ List.replicate (16 - t.length) (BitVec.ofNat 8 (16 - t.length))) (blockBytes k))))

/-- 46_ctr.md section 2: CTRDECF unpads the block; on InvalidPadding CB is left as it was. Default `UNPAD_STRICT`
(log 6). -/
def Obligations.CtrFinalBlockIsUnpadded : Prop :=
  ∀ (data : List Byte) (s : State) (d : Block), data.length = 16 → s.ksValid = true → s.cbValid = true →
    d = xorBlock (blockOfBytes data) (encrypt s.w (keyWords s.nk + 6) s.cb) →
    (1 ≤ d[15].toNat ∧ d[15].toNat ≤ 16 →
      exec (.ctrdecf data) s = .next ((s.setCb (inc32 s.cb)).answer
        (.ok (BitVec.ofNat 8 (16 - d[15].toNat) :: (blockBytes d).take (16 - d[15].toNat))))) ∧
    (d[15].toNat = 0 ∨ 16 < d[15].toNat → exec (.ctrdecf data) s = .next (s.answer (.error .invalidPadding)))

/-- 46_ctr.md section 2: from the same schedule and counter, CTRDECB of what CTRENCB answers is the block, CTRDECF of
what CTRENCF answers is the tail, and both sides end with the same counter. -/
def Obligations.CtrDecryptsWhatItEncrypts : Prop :=
  ∀ s s' : State, s.ksValid = true → s.cbValid = true → s'.ksValid = true → s'.cbValid = true →
    s.w = s'.w → s.nk = s'.nk → s.cb = s'.cb →
    (∀ data : List Byte, data.length = 16 →
      ∃ c t t', exec (.ctrencb data) s = .next t ∧ t.outbox = s.outbox ++ [.ok c] ∧
        exec (.ctrdecb c) s' = .next t' ∧ t'.outbox = s'.outbox ++ [.ok data] ∧ t.cb = t'.cb) ∧
    ∀ tail : List Byte, tail.length ≤ 15 →
      ∃ c t t', exec (.ctrencf tail) s = .next t ∧ t.outbox = s.outbox ++ [.ok c] ∧
        exec (.ctrdecf c) s' = .next t' ∧
        t'.outbox = s'.outbox ++ [.ok (BitVec.ofNat 8 tail.length :: tail)] ∧ t.cb = t'.cb

/-- 46_ctr.md section 3, 20_memory.md section 7: the k-th counter has the initial upper 96 bits and the low word plus k
modulo 2^32, so that the counters, and with them the keystream, repeat after 2^32 blocks. -/
def Obligations.CounterSequence : Prop :=
  ∀ (ctr : Block) (k : Nat),
    (counterField (counterAt ctr k)).toNat = ((counterField ctr).toNat + k) % 2 ^ 32 ∧
    (∀ j (h : j < 12), (counterAt ctr k)[j] = ctr[j]) ∧
    counterAt ctr (k + 2 ^ 32) = counterAt ctr k

/-! ## Whole messages -/

/-- 30_encoding.md section 6, 45_padding_cbc.md section 3: the commands CBCENC stands for, issued one after another,
answer the closed form of CBC encryption, for every message, and CBCDEC the closed form of decryption, at the default
`UNPAD_STRICT` (log 6); a ciphertext that cannot be cut into blocks is refused and changes nothing. -/
def Obligations.CbcCommandsComputeTheMessage : Prop :=
  ∀ (s : State) (iv m : List Byte), s.ksValid = true → iv.length = 16 →
    (∃ t, runPseudo (.cbcenc iv m) s =
        some (t, .ok (cbcEncryptMessage (encryptUnder s) (blockOfBytes iv) m)) ∧
      t.w = s.w ∧ t.nk = s.nk ∧ t.ksValid = true ∧ t.cb = s.cb ∧ t.cbValid = s.cbValid) ∧
    (m.length % 16 = 0 ∧ m ≠ [] →
      ∃ t, runPseudo (.cbcdec iv m) s =
          some (t, cbcDecryptMessage false (decryptUnder s) (blockOfBytes iv) m) ∧
        t.w = s.w ∧ t.nk = s.nk ∧ t.ksValid = true ∧ t.cb = s.cb ∧ t.cbValid = s.cbValid) ∧
    (m.length % 16 ≠ 0 ∨ m = [] → runPseudo (.cbcdec iv m) s = some (s, .error .invalidBlockLength))

/-- 30_encoding.md section 6, 46_ctr.md section 3: the commands CTRENC stands for answer the closed form of CTR
encryption, and CTRDEC the closed form of decryption, at the default `UNPAD_STRICT` (log 6); the counter is left after
the last block. -/
def Obligations.CtrCommandsComputeTheMessage : Prop :=
  ∀ (s : State) (ctr m : List Byte), s.ksValid = true → ctr.length = 16 →
    (∃ t, runPseudo (.ctrenc ctr m) s =
        some (t, .ok (ctrEncryptMessage (encryptUnder s) (blockOfBytes ctr) m)) ∧
      t.cb = counterAt (blockOfBytes ctr) (m.length / 16 + 1) ∧
      t.w = s.w ∧ t.nk = s.nk ∧ t.ksValid = true ∧ t.cv = s.cv ∧ t.cvValid = s.cvValid) ∧
    (m.length % 16 = 0 ∧ m ≠ [] →
      ∃ t, runPseudo (.ctrdec ctr m) s =
          some (t, ctrDecryptMessage false (encryptUnder s) (blockOfBytes ctr) m) ∧
        (∀ r, ctrDecryptMessage false (encryptUnder s) (blockOfBytes ctr) m = .ok r →
          t.cb = counterAt (blockOfBytes ctr) (m.length / 16)) ∧
        t.w = s.w ∧ t.nk = s.nk ∧ t.ksValid = true ∧ t.cv = s.cv ∧ t.cvValid = s.cvValid) ∧
    (m.length % 16 ≠ 0 ∨ m = [] → runPseudo (.ctrdec ctr m) s = some (s, .error .invalidBlockLength))

/-- 30_encoding.md section 6: the host stops at the first status other than OK, which is the result, whatever commands it
issues and whichever of them it is; so does each of the four pseudo-commands. In particular: an initial value of another
length, a schedule that is missing, and, in every state, a ciphertext that cannot be cut into blocks, for which no
command is issued. -/
def Obligations.MessageCommandsStopAtTheFirstError : Prop :=
  (∀ (before after : List Instr) (i : Instr) (got g : List Byte) (s u v : State) (e : CmdError),
    issue before got s = some (u, .ok g) → transact (encode i) u = some (v, .error e) →
      issue (before ++ i :: after) got s = some (v, .error e)) ∧
  (∀ (p : Pseudo) (before after : List Instr) (i : Instr) (g : List Byte) (s u v : State) (e : CmdError),
    expandPseudo p = some (before ++ i :: after) →
      issue before [] s = some (u, .ok g) → transact (encode i) u = some (v, .error e) →
        runPseudo p s = some (v, .error e)) ∧
  ∀ (s : State) (iv m : List Byte),
    (m.length % 16 ≠ 0 ∨ m = [] →
      runPseudo (.cbcdec iv m) s = some (s, .error .invalidBlockLength) ∧
      runPseudo (.ctrdec iv m) s = some (s, .error .invalidBlockLength)) ∧
    (iv.length ≠ 16 → iv.length ≤ 255 →
      (∀ p ∈ [Pseudo.cbcenc iv m, .ctrenc iv m],
        runPseudo p s = some (s.answer (.error .invalidBlockLength), .error .invalidBlockLength)) ∧
      (m.length % 16 = 0 → m ≠ [] → ∀ p ∈ [Pseudo.cbcdec iv m, .ctrdec iv m],
        runPseudo p s = some (s.answer (.error .invalidBlockLength), .error .invalidBlockLength))) ∧
    (iv.length = 16 → s.ksValid = false →
      (∀ p, p = Pseudo.cbcenc iv m ∨ p = .cbcdec iv m ∧ m.length % 16 = 0 ∧ m ≠ [] →
        ∃ t, runPseudo p s = some (t, .error .notReady) ∧
          t.cv = blockOfBytes iv ∧ t.cvValid = true ∧ t.outbox = s.outbox ++ [.ok [], .error .notReady]) ∧
      ∀ p, p = Pseudo.ctrenc iv m ∨ p = .ctrdec iv m ∧ m.length % 16 = 0 ∧ m ≠ [] →
        ∃ t, runPseudo p s = some (t, .error .notReady) ∧
          t.cb = blockOfBytes iv ∧ t.cbValid = true ∧ t.outbox = s.outbox ++ [.ok [], .error .notReady])

/-- 45_padding_cbc.md section 3, 46_ctr.md section 3: decrypting the encryption of a message gives the message, for
every message, IV or counter and schedule, whichever value `UNPAD_STRICT` has. -/
def Obligations.MessagesRoundTrip : Prop :=
  ∀ (w : Vector Word 60) (nr : Nat) (iv : Block) (msg : List Byte) (strict : Bool),
    cbcDecryptMessage strict (decrypt w nr) iv (cbcEncryptMessage (encrypt w nr) iv msg) = .ok msg ∧
    ctrDecryptMessage strict (encrypt w nr) iv (ctrEncryptMessage (encrypt w nr) iv msg) = .ok msg
end

