-- ==== Sys2Proof/Laws/Bytes.lean ====
section
/-! SUPPORT. The laws of words, blocks and byte strings (20_memory.md R51, R52). -/

namespace Sys2Proof

@[simp] theorem wordByte_wordOfBytes_zero (b0 b1 b2 b3 : Byte) : wordByte (wordOfBytes b0 b1 b2 b3) 0 = b0 := by
  ext i hi
  simp [wordByte, wordOfBytes]
  grind

@[simp] theorem wordByte_wordOfBytes_one (b0 b1 b2 b3 : Byte) : wordByte (wordOfBytes b0 b1 b2 b3) 1 = b1 := by
  ext i hi
  simp [wordByte, wordOfBytes]
  grind

@[simp] theorem wordByte_wordOfBytes_two (b0 b1 b2 b3 : Byte) : wordByte (wordOfBytes b0 b1 b2 b3) 2 = b2 := by
  ext i hi
  simp [wordByte, wordOfBytes]
  grind

@[simp] theorem wordByte_wordOfBytes_three (b0 b1 b2 b3 : Byte) : wordByte (wordOfBytes b0 b1 b2 b3) 3 = b3 := by
  ext i hi
  simp [wordByte, wordOfBytes]
  grind

/-- A word is made of its four bytes (R52). -/
@[simp] theorem wordOfBytes_wordByte (w : Word) :
    wordOfBytes (wordByte w 0) (wordByte w 1) (wordByte w 2) (wordByte w 3) = w := by
  ext i hi
  simp [wordByte, wordOfBytes]
  grind

@[simp] theorem wordBytes_wordOfBytes (b0 b1 b2 b3 : Byte) :
    wordBytes (wordOfBytes b0 b1 b2 b3) = [b0, b1, b2, b3] := by simp [wordBytes]

/-- The number a word stands for (R52). -/
theorem toNat_wordOfBytes (b0 b1 b2 b3 : Byte) : (wordOfBytes b0 b1 b2 b3).toNat =
    b0.toNat * 2 ^ 24 + b1.toNat * 2 ^ 16 + b2.toNat * 2 ^ 8 + b3.toNat := by
  have h1 := b1.isLt
  have h2 := b2.isLt
  have h3 := b3.isLt
  simp only [wordOfBytes, BitVec.toNat_append]
  rw [← Nat.shiftLeft_add_eq_or_of_lt h3, ← Nat.shiftLeft_add_eq_or_of_lt h2, ← Nat.shiftLeft_add_eq_or_of_lt h1]
  simp only [Nat.shiftLeft_eq]
  omega

@[simp] theorem length_wordBytes (w : Word) : (wordBytes w).length = 4 := rfl

/-- Exclusive-or of words is exclusive-or of their bytes. -/
theorem wordByte_xor (v w : Word) (k : Nat) : wordByte (v ^^^ w) k = wordByte v k ^^^ wordByte w k := by
  ext i hi
  simp [wordByte]

@[simp] theorem length_blockBytes (b : Block) : (blockBytes b).length = 16 := by simp [blockBytes]

/-- A 16-byte string is the bytes of its block (R51). -/
theorem blockBytes_blockOfBytes {l : List Byte} (h : l.length = 16) : blockBytes (blockOfBytes l) = l := by
  apply List.ext_getElem
  · simp [h]
  · intro i h1 h2
    simp [blockBytes, blockOfBytes, h2]

/-- A block is the block of its bytes (R51). -/
@[simp] theorem blockOfBytes_blockBytes (b : Block) : blockOfBytes (blockBytes b) = b := by
  ext i hi
  simp [blockBytes, blockOfBytes]

theorem getElem_blockOfBytes (l : List Byte) (i : Nat) (h : i < 16) : (blockOfBytes l)[i] = l.getD i 0 := by
  simp [blockOfBytes]

@[simp] theorem getElem_xorBlock (x y : Block) (i : Nat) (h : i < 16) : (xorBlock x y)[i] = x[i] ^^^ y[i] := by
  simp [xorBlock]

theorem xorBlock_comm (x y : Block) : xorBlock x y = xorBlock y x := by
  ext1 i hi
  simp [BitVec.xor_comm]

/-- XOR with the same block twice gives the block back. -/
@[simp] theorem xorBlock_xorBlock_cancel (x y : Block) : xorBlock (xorBlock x y) y = x := by
  ext1 i hi
  simp

@[simp] theorem xorBlock_cancel_left (x y : Block) : xorBlock y (xorBlock y x) = x := by
  ext1 i hi
  simp

end Sys2Proof
end

