-- ==== Sys2Proof/Laws/Encoding.lean ====
section
/-! SUPPORT. What becomes of a command whose operand string does not fit its length byte (log 8). -/

namespace Sys2Proof

/-- The length byte of such a string is not its length. -/
theorem length_ne_toNat_byteOfNat {data : List Byte} (h : operandFits data = false) :
    data.length ≠ (byteOfNat data.length).toNat := by
  have := (byteOfNat data.length).isLt
  simp only [operandFits, decide_eq_false_iff_not] at h
  omega

/-- Such a command's request is refused for its framing (R73). -/
theorem decode_encode_of_not_wellFormed {i : Instr} (h : i.wellFormed = false) :
    decode (encode i) = .error .badFraming := by
  cases i <;> simp only [Instr.wellFormed, Bool.true_eq_false] at h <;>
    simp [decode, encode, encodeL, shapeOf, opcodeMap, List.lookup, readOperands, length_ne_toNat_byteOfNat h]

end Sys2Proof
end

