-- ==== Sys2Proof/Laws/Matrix.lean ====
section
/-! SUPPORT. The State matrix: its cells, and that loading and storing a block are inverse (10_state.md R24). -/

namespace Sys2Proof.Machine

@[simp] theorem cell_matrixOf (f : Fin 4 → Fin 4 → Byte) (r c : Fin 4) : cell (matrixOf f) r c = f r c := by
  simp [cell, matrixOf]

/-- Two matrices with the same cells are equal. -/
theorem matrix_ext {S T : Matrix} (h : ∀ r c, cell S r c = cell T r c) : S = T := by
  apply Vector.ext
  intro r hr
  apply Vector.ext
  intro c hc
  exact h ⟨r, hr⟩ ⟨c, hc⟩

@[simp] theorem cell_load (b : Block) (r c : Fin 4) : cell (load b) r c = b[r.val + 4 * c.val] := by
  simp [load]

/-- A stored byte (R24). -/
theorem getElem_store (S : Matrix) (k : Nat) (h : k < 16) :
    (store S)[k] = cell S ⟨k % 4, by omega⟩ ⟨k / 4, by omega⟩ := by
  simp [store]

@[simp] theorem store_load (b : Block) : store (load b) = b := by
  ext1 k hk
  rw [getElem_store _ _ hk, cell_load]
  congr 1
  simp only
  omega

@[simp] theorem load_store (S : Matrix) : load (store S) = S := by
  apply matrix_ext
  intro r c
  rw [cell_load, getElem_store _ _ (by omega)]
  congr 1
  · apply Fin.ext; simp only; omega
  · apply Fin.ext; simp only; omega

/-- A cell of a loaded byte string (R24). -/
theorem cell_load_blockOfBytes (l : List Byte) (r c : Fin 4) :
    cell (load (blockOfBytes l)) r c = l.getD (r.val + 4 * c.val) 0 := by
  simp [getElem_blockOfBytes]

/-- A stored State as a byte string, column by column (R24). -/
theorem blockBytes_store (S : Matrix) : blockBytes (store S) =
    [cell S 0 0, cell S 1 0, cell S 2 0, cell S 3 0, cell S 0 1, cell S 1 1, cell S 2 1, cell S 3 1,
     cell S 0 2, cell S 1 2, cell S 2 2, cell S 3 2, cell S 0 3, cell S 1 3, cell S 2 3, cell S 3 3] := rfl

@[simp] theorem cell_subBytes (S : Matrix) (r c : Fin 4) : cell (subBytes S) r c = sbox (cell S r c) := by
  simp [subBytes]

@[simp] theorem cell_invSubBytes (S : Matrix) (r c : Fin 4) : cell (invSubBytes S) r c = isbox (cell S r c) := by
  simp [invSubBytes]

@[simp] theorem cell_shiftRows (S : Matrix) (r c : Fin 4) : cell (shiftRows S) r c = cell S r (c + r) := by
  simp [shiftRows]

@[simp] theorem cell_invShiftRows (S : Matrix) (r c : Fin 4) : cell (invShiftRows S) r c = cell S r (c - r) := by
  simp [invShiftRows]

@[simp] theorem cell_addRoundKey (w : Vector Word 60) (rk : Nat) (S : Matrix) (r c : Fin 4) :
    cell (addRoundKey w rk S) r c = cell S r c ^^^ wordByte (wordAt w (4 * rk + c.val)) r.val := by
  simp [addRoundKey]

@[simp] theorem cell_xorMatrix (S T : Matrix) (r c : Fin 4) : cell (xorMatrix S T) r c = cell S r c ^^^ cell T r c := by
  simp [xorMatrix]

@[simp] theorem cell_keyMatrix (w : Vector Word 60) (rk : Nat) (r c : Fin 4) :
    cell (keyMatrix w rk) r c = wordByte (wordAt w (4 * rk + c.val)) r.val := by
  simp [keyMatrix]

/-- A cell after a column mix (R137). -/
theorem cell_mixWith (m : Vector Byte 4) (S : Matrix) (r c : Fin 4) :
    cell (mixWith m S) r c =
      gfmul m[0 - r] (cell S 0 c) ^^^ gfmul m[1 - r] (cell S 1 c) ^^^
        gfmul m[2 - r] (cell S 2 c) ^^^ gfmul m[3 - r] (cell S 3 c) := by
  simp [mixWith]

/-- AddRoundKey is XOR with the round key taken as a State (R140). -/
theorem addRoundKey_eq_xorMatrix (w : Vector Word 60) (rk : Nat) (S : Matrix) :
    addRoundKey w rk S = xorMatrix S (keyMatrix w rk) := by
  apply matrix_ext
  intro r c
  simp

end Sys2Proof.Machine
end

