-- ==== Sys2Proof/Laws/State.lean ====
section
/-! SUPPORT. What each update of the state does to each field, so that no proof unfolds a record update. -/

namespace Sys2Proof.Machine

@[simp] theorem State.answer_w (s : State) (r : Response) : (s.answer r).w = s.w := rfl
@[simp] theorem State.answer_nk (s : State) (r : Response) : (s.answer r).nk = s.nk := rfl
@[simp] theorem State.answer_ksValid (s : State) (r : Response) : (s.answer r).ksValid = s.ksValid := rfl
@[simp] theorem State.answer_cv (s : State) (r : Response) : (s.answer r).cv = s.cv := rfl
@[simp] theorem State.answer_cvValid (s : State) (r : Response) : (s.answer r).cvValid = s.cvValid := rfl
@[simp] theorem State.answer_cb (s : State) (r : Response) : (s.answer r).cb = s.cb := rfl
@[simp] theorem State.answer_cbValid (s : State) (r : Response) : (s.answer r).cbValid = s.cbValid := rfl
@[simp] theorem State.answer_staleCount (s : State) (r : Response) : (s.answer r).staleCount = s.staleCount := rfl
@[simp] theorem State.answer_inbox (s : State) (r : Response) : (s.answer r).inbox = s.inbox := rfl
@[simp] theorem State.answer_outbox (s : State) (r : Response) : (s.answer r).outbox = s.outbox ++ [r] := rfl

@[simp] theorem State.setCv_w (s : State) (b : Block) : (s.setCv b).w = s.w := rfl
@[simp] theorem State.setCv_nk (s : State) (b : Block) : (s.setCv b).nk = s.nk := rfl
@[simp] theorem State.setCv_ksValid (s : State) (b : Block) : (s.setCv b).ksValid = s.ksValid := rfl
@[simp] theorem State.setCv_cv (s : State) (b : Block) : (s.setCv b).cv = b := rfl
@[simp] theorem State.setCv_cvValid (s : State) (b : Block) : (s.setCv b).cvValid = s.cvValid := rfl
@[simp] theorem State.setCv_cb (s : State) (b : Block) : (s.setCv b).cb = s.cb := rfl
@[simp] theorem State.setCv_cbValid (s : State) (b : Block) : (s.setCv b).cbValid = s.cbValid := rfl
@[simp] theorem State.setCv_staleCount (s : State) (b : Block) : (s.setCv b).staleCount = s.staleCount := rfl
@[simp] theorem State.setCv_inbox (s : State) (b : Block) : (s.setCv b).inbox = s.inbox := rfl
@[simp] theorem State.setCv_outbox (s : State) (b : Block) : (s.setCv b).outbox = s.outbox := rfl

@[simp] theorem State.initCv_w (s : State) (b : Block) : (s.initCv b).w = s.w := rfl
@[simp] theorem State.initCv_nk (s : State) (b : Block) : (s.initCv b).nk = s.nk := rfl
@[simp] theorem State.initCv_ksValid (s : State) (b : Block) : (s.initCv b).ksValid = s.ksValid := rfl
@[simp] theorem State.initCv_cv (s : State) (b : Block) : (s.initCv b).cv = b := rfl
@[simp] theorem State.initCv_cvValid (s : State) (b : Block) : (s.initCv b).cvValid = true := rfl
@[simp] theorem State.initCv_cb (s : State) (b : Block) : (s.initCv b).cb = s.cb := rfl
@[simp] theorem State.initCv_cbValid (s : State) (b : Block) : (s.initCv b).cbValid = s.cbValid := rfl
@[simp] theorem State.initCv_staleCount (s : State) (b : Block) : (s.initCv b).staleCount = s.staleCount := rfl
@[simp] theorem State.initCv_inbox (s : State) (b : Block) : (s.initCv b).inbox = s.inbox := rfl
@[simp] theorem State.initCv_outbox (s : State) (b : Block) : (s.initCv b).outbox = s.outbox := rfl

@[simp] theorem State.setCb_w (s : State) (b : Block) : (s.setCb b).w = s.w := rfl
@[simp] theorem State.setCb_nk (s : State) (b : Block) : (s.setCb b).nk = s.nk := rfl
@[simp] theorem State.setCb_ksValid (s : State) (b : Block) : (s.setCb b).ksValid = s.ksValid := rfl
@[simp] theorem State.setCb_cv (s : State) (b : Block) : (s.setCb b).cv = s.cv := rfl
@[simp] theorem State.setCb_cvValid (s : State) (b : Block) : (s.setCb b).cvValid = s.cvValid := rfl
@[simp] theorem State.setCb_cb (s : State) (b : Block) : (s.setCb b).cb = b := rfl
@[simp] theorem State.setCb_cbValid (s : State) (b : Block) : (s.setCb b).cbValid = s.cbValid := rfl
@[simp] theorem State.setCb_staleCount (s : State) (b : Block) : (s.setCb b).staleCount = s.staleCount := rfl
@[simp] theorem State.setCb_inbox (s : State) (b : Block) : (s.setCb b).inbox = s.inbox := rfl
@[simp] theorem State.setCb_outbox (s : State) (b : Block) : (s.setCb b).outbox = s.outbox := rfl

@[simp] theorem State.initCb_w (s : State) (b : Block) : (s.initCb b).w = s.w := rfl
@[simp] theorem State.initCb_nk (s : State) (b : Block) : (s.initCb b).nk = s.nk := rfl
@[simp] theorem State.initCb_ksValid (s : State) (b : Block) : (s.initCb b).ksValid = s.ksValid := rfl
@[simp] theorem State.initCb_cv (s : State) (b : Block) : (s.initCb b).cv = s.cv := rfl
@[simp] theorem State.initCb_cvValid (s : State) (b : Block) : (s.initCb b).cvValid = s.cvValid := rfl
@[simp] theorem State.initCb_cb (s : State) (b : Block) : (s.initCb b).cb = b := rfl
@[simp] theorem State.initCb_cbValid (s : State) (b : Block) : (s.initCb b).cbValid = true := rfl
@[simp] theorem State.initCb_staleCount (s : State) (b : Block) : (s.initCb b).staleCount = s.staleCount := rfl
@[simp] theorem State.initCb_inbox (s : State) (b : Block) : (s.initCb b).inbox = s.inbox := rfl
@[simp] theorem State.initCb_outbox (s : State) (b : Block) : (s.initCb b).outbox = s.outbox := rfl

@[simp] theorem State.setSchedule_w (s : State) (x : Vector Word 60) (k : KeyLen) : (s.setSchedule x k).w = x := rfl
@[simp] theorem State.setSchedule_nk (s : State) (x : Vector Word 60) (k : KeyLen) : (s.setSchedule x k).nk = k := rfl
@[simp] theorem State.setSchedule_ksValid (s : State) (x : Vector Word 60) (k : KeyLen) : (s.setSchedule x k).ksValid = true := rfl
@[simp] theorem State.setSchedule_cv (s : State) (x : Vector Word 60) (k : KeyLen) : (s.setSchedule x k).cv = s.cv := rfl
@[simp] theorem State.setSchedule_cvValid (s : State) (x : Vector Word 60) (k : KeyLen) : (s.setSchedule x k).cvValid = s.cvValid := rfl
@[simp] theorem State.setSchedule_cb (s : State) (x : Vector Word 60) (k : KeyLen) : (s.setSchedule x k).cb = s.cb := rfl
@[simp] theorem State.setSchedule_cbValid (s : State) (x : Vector Word 60) (k : KeyLen) : (s.setSchedule x k).cbValid = s.cbValid := rfl
@[simp] theorem State.setSchedule_staleCount (s : State) (x : Vector Word 60) (k : KeyLen) : (s.setSchedule x k).staleCount = s.staleCount + 1 := rfl
@[simp] theorem State.setSchedule_inbox (s : State) (x : Vector Word 60) (k : KeyLen) : (s.setSchedule x k).inbox = s.inbox := rfl
@[simp] theorem State.setSchedule_outbox (s : State) (x : Vector Word 60) (k : KeyLen) : (s.setSchedule x k).outbox = s.outbox := rfl

theorem wordAt_lt (w : Vector Word 60) (i : Nat) (h : i < 60) : wordAt w i = w[i] := by
  simp [wordAt, Vector.getD, h]

theorem scheduleLength_le (k : KeyLen) : scheduleLength k ≤ 60 := by cases k <;> decide

/-- The schedule's words after a KEYEXP (R120). -/
theorem wordAt_scheduleStore (k : KeyLen) (ws : List Word) (n i : Nat) (h : i < scheduleLength k) :
    wordAt (scheduleStore k ws n) i = ws.getD i 0 := by
  have := scheduleLength_le k
  rw [wordAt_lt _ _ (by omega)]
  simp [scheduleStore, h]

/-- The words above the schedule after a KEYEXP are free values (log 2). -/
theorem wordAt_scheduleStore_stale (k : KeyLen) (ws : List Word) (n i : Nat)
    (h : scheduleLength k ≤ i) (h60 : i < 60) :
    wordAt (scheduleStore k ws n) i = Config.staleWord n i := by
  rw [wordAt_lt _ _ h60]
  simp [scheduleStore, Nat.not_lt.2 h]

end Sys2Proof.Machine
end

