-- ==== Sys2Proof/Laws/Operations.lean ====
section
/-! SUPPORT. For each shared operation, one lemma that says everything it can do, and one that gives its answer when
its check passes. -/

namespace Sys2Proof.Machine

theorem respond_eq_next {p : List Byte} {s t : State} : respond p s = .next t ↔ t = s.answer (.ok p) := by
  simp [respond, eq_comm]

theorem raise_eq_next {e : CmdError} {s t : State} : raise e s = .next t ↔ t = s.answer (.error e) := by
  simp [raise, eq_comm]

theorem withBlock_of_length {data : List Byte} {s : State} {body : Block → Result} (h : data.length = 16) :
    withBlock data s body = body (blockOfBytes data) := by simp [withBlock, h]

theorem withBlock_of_length_ne {data : List Byte} {s : State} {body : Block → Result} (h : data.length ≠ 16) :
    withBlock data s body = raise .invalidBlockLength s := by simp [withBlock, h]

/-- Everything a block operand's check can do (R203). -/
theorem withBlock_eq_next {data : List Byte} {s t : State} {body : Block → Result} :
    withBlock data s body = .next t ↔
      data.length = 16 ∧ body (blockOfBytes data) = .next t ∨
        data.length ≠ 16 ∧ t = s.answer (.error .invalidBlockLength) := by
  by_cases h : data.length = 16 <;> simp [withBlock, h, raise_eq_next]

theorem withTail_of_length {data : List Byte} {s : State} {body : List Byte → Result} (h : data.length ≤ 15) :
    withTail data s body = body data := by simp [withTail, h]

theorem withTail_of_length_gt {data : List Byte} {s : State} {body : List Byte → Result} (h : 15 < data.length) :
    withTail data s body = raise .invalidBlockLength s := by simp [withTail, Nat.not_le.2 h]

/-- Everything a tail operand's check can do (R203). -/
theorem withTail_eq_next {data : List Byte} {s t : State} {body : List Byte → Result} :
    withTail data s body = .next t ↔
      data.length ≤ 15 ∧ body data = .next t ∨
        15 < data.length ∧ t = s.answer (.error .invalidBlockLength) := by
  by_cases h : data.length ≤ 15
  · simp [withTail, h]
  · simp [withTail, h, Nat.lt_of_not_le h, raise_eq_next]

/-- Which lengths a key may have (R120, R202). -/
theorem keyLenOf_eq_some {n : Nat} {k : KeyLen} : keyLenOf n = some k ↔ n = 4 * keyWords k := by
  unfold keyLenOf
  split <;> cases k <;> simp_all [keyWords]

/-- A length that is refused (R202). -/
theorem keyLenOf_eq_none {n : Nat} : keyLenOf n = none ↔ n ≠ 16 ∧ n ≠ 24 ∧ n ≠ 32 := by
  unfold keyLenOf
  split <;> simp_all

theorem withKey_of_length {key : List Byte} {s : State} {body : KeyLen → Result} {k : KeyLen}
    (h : key.length = 4 * keyWords k) : withKey key s body = body k := by
  simp [withKey, keyLenOf_eq_some.2 h]

/-- Everything a key operand's check can do (R202). -/
theorem withKey_eq_next {key : List Byte} {s t : State} {body : KeyLen → Result} :
    withKey key s body = .next t ↔
      (∃ k, key.length = 4 * keyWords k ∧ body k = .next t) ∨
        (key.length ≠ 16 ∧ key.length ≠ 24 ∧ key.length ≠ 32) ∧ t = s.answer (.error .invalidKeyLength) := by
  unfold withKey
  split
  · rename_i k h
    have hk := keyLenOf_eq_some.1 h
    constructor
    · exact fun hb => .inl ⟨k, hk, hb⟩
    · rintro (⟨k', hk', hb⟩ | ⟨hn, -⟩)
      · have : k = k' := by
          have := keyLenOf_eq_some.2 hk'
          rw [h] at this
          exact Option.some.inj this
        exact this ▸ hb
      · rw [keyLenOf_eq_none.2 hn] at h
        cases h
  · rename_i h
    have hn := keyLenOf_eq_none.1 h
    simp only [raise_eq_next]
    constructor
    · exact fun ht => .inr ⟨hn, ht⟩
    · rintro (⟨k, hk, -⟩ | ⟨-, ht⟩)
      · rw [keyLenOf_eq_some.2 hk] at h
        cases h
      · exact ht

theorem needSchedule_of_valid {s : State} {body : Result} (h : s.ksValid = true) : needSchedule s body = body := by
  simp [needSchedule, h]

/-- Everything the check of KS_VALID can do (R204). -/
theorem needSchedule_eq_next {s t : State} {body : Result} :
    needSchedule s body = .next t ↔
      s.ksValid = true ∧ body = .next t ∨ s.ksValid = false ∧ t = s.answer (.error .notReady) := by
  cases h : s.ksValid <;> simp [needSchedule, h, raise_eq_next]

theorem needCv_of_valid {s : State} {body : Result} (h : s.cvValid = true) : needCv s body = body := by
  simp [needCv, h]

/-- Everything the check of CV_VALID can do (R204). -/
theorem needCv_eq_next {s t : State} {body : Result} :
    needCv s body = .next t ↔
      s.cvValid = true ∧ body = .next t ∨ s.cvValid = false ∧ t = s.answer (.error .notReady) := by
  cases h : s.cvValid <;> simp [needCv, h, raise_eq_next]

theorem needCb_of_valid {s : State} {body : Result} (h : s.cbValid = true) : needCb s body = body := by
  simp [needCb, h]

/-- Everything the check of CB_VALID can do (R204). -/
theorem needCb_eq_next {s t : State} {body : Result} :
    needCb s body = .next t ↔
      s.cbValid = true ∧ body = .next t ∨ s.cbValid = false ∧ t = s.answer (.error .notReady) := by
  cases h : s.cbValid <;> simp [needCb, h, raise_eq_next]

theorem needCbc_of_valid {s : State} {body : Result} (h : s.ksValid = true) (h' : s.cvValid = true) :
    needCbc s body = body := by simp [needCbc, h, h']

/-- Everything the check of the CBC block commands can do (R204). -/
theorem needCbc_eq_next {s t : State} {body : Result} :
    needCbc s body = .next t ↔
      (s.ksValid = true ∧ s.cvValid = true) ∧ body = .next t ∨
        (s.ksValid = false ∨ s.cvValid = false) ∧ t = s.answer (.error .notReady) := by
  cases h : s.ksValid <;> cases h' : s.cvValid <;> simp [needCbc, h, h', raise_eq_next]

theorem needCtr_of_valid {s : State} {body : Result} (h : s.ksValid = true) (h' : s.cbValid = true) :
    needCtr s body = body := by simp [needCtr, h, h']

/-- Everything the check of the CTR block commands can do (R204). -/
theorem needCtr_eq_next {s t : State} {body : Result} :
    needCtr s body = .next t ↔
      (s.ksValid = true ∧ s.cbValid = true) ∧ body = .next t ∨
        (s.ksValid = false ∨ s.cbValid = false) ∧ t = s.answer (.error .notReady) := by
  cases h : s.ksValid <;> cases h' : s.cbValid <;> simp [needCtr, h, h', raise_eq_next]

/-- Unpadding raises no other error (R161, R207). -/
theorem unpadFinal_error {strict : Bool} {d : Block} {e : CmdError} (h : unpadFinal strict d = .error e) :
    e = .invalidPadding := by
  unfold unpadFinal at h
  split at h
  · cases h; rfl
  · split at h <;> cases h; rfl

/-- Everything the end of an unpadding command can do (R163, R169, R186, R206). -/
theorem respondUnpadded_eq_next {strict : Bool} {d : Block} {c s t : State} :
    respondUnpadded strict d c s = .next t ↔
      (∃ m, unpadFinal strict d = .ok m ∧ t = c.answer (.ok (countedBytes m))) ∨
        unpadFinal strict d = .error .invalidPadding ∧ t = s.answer (.error .invalidPadding) := by
  unfold respondUnpadded
  split
  · rename_i m h
    simp [h, respond_eq_next]
  · rename_i e h
    obtain rfl := unpadFinal_error h
    simp [h, raise_eq_next]

/-- Everything one step can do. -/
theorem step_eq_next {s t : State} :
    step s = .next t ↔
      s.inbox = [] ∧ t = s ∨
      (∃ rest, s.inbox = .reset :: rest ∧
        t = { State.reset with staleCount := s.staleCount, inbox := rest, outbox := s.outbox }) ∨
      (∃ bytes rest i, s.inbox = .request bytes :: rest ∧ decode bytes = .ok i ∧
        exec i { s with inbox := rest } = .next t) ∨
      ∃ bytes rest r, s.inbox = .request bytes :: rest ∧ decode bytes = .error r ∧
        t = State.answer { s with inbox := rest } (.error .illegalCommand) := by
  unfold step takeEvent
  cases hin : s.inbox with
  | nil =>
    simp only [idle, Host.Outcome.next.injEq]
    simpa using eq_comm
  | cons e rest =>
    cases e with
    | reset =>
      simp only [resetEvent, Host.Outcome.next.injEq]
      simpa using eq_comm
    | request bytes =>
      cases hd : decode bytes with
      | ok i => simp [hd]
      | error r => simp [hd, rejectRequest, raise_eq_next]

end Sys2Proof.Machine
end

