-- ==== Sys2Proof/Laws/PerInstr.lean ====
section
/-! SUPPORT. One statement about every command as syntax: the request of a well-formed command has the total length
its opcode and its length byte call for (30_encoding.md R73). -/

namespace Sys2Proof.Laws.Framing

open Sys2Proof Sys2Proof.Machine

/-- A well-formed command's request is framed as R73 asks. -/
def Statement (i : Instr) : Prop := i.wellFormed = true → requiredLength (encode i) = some (encode i).length

/-- The byte that holds a length of at most 255. -/
theorem toNat_byteOfNat {data : List Byte} (h : operandFits data = true) : (byteOfNat data.length).toNat = data.length := by
  simp only [operandFits, decide_eq_true_eq] at h
  simp only [byteOfNat, BitVec.toNat_ofNat]
  omega

theorem gfmul (a : Byte) (b : Byte) : Statement (.gfmul a b) := fun _ => rfl

theorem sbox (a : Byte) : Statement (.sbox a) := fun _ => rfl

theorem isbox (a : Byte) : Statement (.isbox a) := fun _ => rfl

theorem rotw (w : Word) : Statement (.rotw w) := fun _ => rfl

theorem subw (w : Word) : Statement (.subw w) := fun _ => rfl

theorem rcon (j : Byte) : Statement (.rcon j) := fun _ => rfl

theorem subb (data : List Byte) : Statement (.subb data) := by
  intro h
  simp [requiredLength, encode, encodeL, toNat_byteOfNat h]
  omega

theorem isubb (data : List Byte) : Statement (.isubb data) := by
  intro h
  simp [requiredLength, encode, encodeL, toNat_byteOfNat h]
  omega

theorem shrows (data : List Byte) : Statement (.shrows data) := by
  intro h
  simp [requiredLength, encode, encodeL, toNat_byteOfNat h]
  omega

theorem ishrows (data : List Byte) : Statement (.ishrows data) := by
  intro h
  simp [requiredLength, encode, encodeL, toNat_byteOfNat h]
  omega

theorem mixcol (data : List Byte) : Statement (.mixcol data) := by
  intro h
  simp [requiredLength, encode, encodeL, toNat_byteOfNat h]
  omega

theorem imixcol (data : List Byte) : Statement (.imixcol data) := by
  intro h
  simp [requiredLength, encode, encodeL, toNat_byteOfNat h]
  omega

theorem addrk (rk : Byte) (data : List Byte) : Statement (.addrk rk data) := by
  intro h
  simp [requiredLength, encode, toNat_byteOfNat h]
  omega

theorem inc32 (data : List Byte) : Statement (.inc32 data) := by
  intro h
  simp [requiredLength, encode, encodeL, toNat_byteOfNat h]
  omega

theorem pad (data : List Byte) : Statement (.pad data) := by
  intro h
  simp [requiredLength, encode, encodeL, toNat_byteOfNat h]
  omega

theorem unpad (data : List Byte) : Statement (.unpad data) := by
  intro h
  simp [requiredLength, encode, encodeL, toNat_byteOfNat h]
  omega

theorem keyexp (key : List Byte) : Statement (.keyexp key) := by
  intro h
  simp [requiredLength, encode, encodeL, toNat_byteOfNat h]
  omega

theorem rdrk (i : Byte) : Statement (.rdrk i) := fun _ => rfl

theorem encblk (data : List Byte) : Statement (.encblk data) := by
  intro h
  simp [requiredLength, encode, encodeL, toNat_byteOfNat h]
  omega

theorem decblk (data : List Byte) : Statement (.decblk data) := by
  intro h
  simp [requiredLength, encode, encodeL, toNat_byteOfNat h]
  omega

theorem cbcinit (iv : List Byte) : Statement (.cbcinit iv) := by
  intro h
  simp [requiredLength, encode, encodeL, toNat_byteOfNat h]
  omega

theorem cbcencb (data : List Byte) : Statement (.cbcencb data) := by
  intro h
  simp [requiredLength, encode, encodeL, toNat_byteOfNat h]
  omega

theorem cbcencf (data : List Byte) : Statement (.cbcencf data) := by
  intro h
  simp [requiredLength, encode, encodeL, toNat_byteOfNat h]
  omega

theorem cbcdecb (data : List Byte) : Statement (.cbcdecb data) := by
  intro h
  simp [requiredLength, encode, encodeL, toNat_byteOfNat h]
  omega

theorem cbcdecf (data : List Byte) : Statement (.cbcdecf data) := by
  intro h
  simp [requiredLength, encode, encodeL, toNat_byteOfNat h]
  omega

theorem rdcv : Statement (.rdcv) := fun _ => rfl

theorem ctrinit (ctr : List Byte) : Statement (.ctrinit ctr) := by
  intro h
  simp [requiredLength, encode, encodeL, toNat_byteOfNat h]
  omega

theorem ctrencb (data : List Byte) : Statement (.ctrencb data) := by
  intro h
  simp [requiredLength, encode, encodeL, toNat_byteOfNat h]
  omega

theorem ctrencf (data : List Byte) : Statement (.ctrencf data) := by
  intro h
  simp [requiredLength, encode, encodeL, toNat_byteOfNat h]
  omega

theorem ctrdecb (data : List Byte) : Statement (.ctrdecb data) := by
  intro h
  simp [requiredLength, encode, encodeL, toNat_byteOfNat h]
  omega

theorem ctrdecf (data : List Byte) : Statement (.ctrdecf data) := by
  intro h
  simp [requiredLength, encode, encodeL, toNat_byteOfNat h]
  omega

theorem rdctr : Statement (.rdctr) := fun _ => rfl

end Sys2Proof.Laws.Framing
end

