-- ==== Sys2Proof/Laws/Pseudo.lean ====
section
/-! SUPPORT. What sending one request and issuing one command of a list can do (30_encoding.md R70, R96). -/

namespace Sys2Proof.Machine

/-- A request that decodes is answered with the response its command appends. -/
theorem transact_of_decode {request : List Byte} {i : Instr} {s t : State} {r : Response}
    (hd : decode request = .ok i) (he : exec i s = .next t) (ho : t.outbox = s.outbox ++ [r]) :
    transact request s = some (t, r) := by
  simp [transact, step, takeEvent, hd, he, ho]

@[simp] theorem issue_nil (got : List Byte) (s : State) : issue [] got s = some (s, .ok got) := rfl

/-- A command answered OK: its payload is collected and the rest of the list is issued. -/
theorem issue_cons_ok {i : Instr} {rest : List Instr} {got payload : List Byte} {s t : State}
    (h : transact (encode i) s = some (t, .ok payload)) :
    issue (i :: rest) got s = issue rest (got ++ payloadData i payload) t := by
  simp [issue, h]

/-- A command answered with an error: the list ends there. -/
theorem issue_cons_error {i : Instr} {rest : List Instr} {got : List Byte} {s t : State} {e : CmdError}
    (h : transact (encode i) s = some (t, .error e)) : issue (i :: rest) got s = some (t, .error e) := by
  simp [issue, h]

/-- Which ciphertexts can be cut into blocks. -/
theorem cutsIntoBlocks_iff {ct : List Byte} : cutsIntoBlocks ct = true ↔ ct.length % 16 = 0 ∧ ct ≠ [] := by
  simp [cutsIntoBlocks]

end Sys2Proof.Machine
end

