-- ==== Sys2Proof/Machine/Assembler.lean ====
section
/-! DEFINITION. The written form of requests and responses (30_encoding.md R95), as lists of characters. The bytes the
assembler emits for a request are `encode` (Decode.lean). -/

namespace Sys2Proof.Machine

/-- One hex digit, lower case. -/
def hexDigit (n : Nat) : Char := "0123456789abcdef".toList.getD n '?'

/-- A byte as two hex digits (R95). -/
def hexByte (b : Byte) : List Char := [hexDigit (b.toNat / 16), hexDigit (b.toNat % 16)]

/-- A byte string as a run of hex digits, first byte first, or `-` when empty (R95). -/
def hexString : List Byte → List Char
  | [] => ['-']
  | b :: bs => (b :: bs).flatMap hexByte

/-- A word as eight hex digits, leading byte first (R95). -/
def hexWord (w : Word) : List Char := hexString (wordBytes w)

/-- The mnemonic of a command (R80). -/
def mnemonic : Instr → String
  | .gfmul _ _ => "GFMUL"
  | .sbox _ => "SBOX"
  | .isbox _ => "ISBOX"
  | .rotw _ => "ROTW"
  | .subw _ => "SUBW"
  | .rcon _ => "RCON"
  | .subb _ => "SUBB"
  | .isubb _ => "ISUBB"
  | .shrows _ => "SHROWS"
  | .ishrows _ => "ISHROWS"
  | .mixcol _ => "MIXCOL"
  | .imixcol _ => "IMIXCOL"
  | .addrk _ _ => "ADDRK"
  | .inc32 _ => "INC32"
  | .pad _ => "PAD"
  | .unpad _ => "UNPAD"
  | .keyexp _ => "KEYEXP"
  | .rdrk _ => "RDRK"
  | .encblk _ => "ENCBLK"
  | .decblk _ => "DECBLK"
  | .cbcinit _ => "CBCINIT"
  | .cbcencb _ => "CBCENCB"
  | .cbcencf _ => "CBCENCF"
  | .cbcdecb _ => "CBCDECB"
  | .cbcdecf _ => "CBCDECF"
  | .rdcv => "RDCV"
  | .ctrinit _ => "CTRINIT"
  | .ctrencb _ => "CTRENCB"
  | .ctrencf _ => "CTRENCF"
  | .ctrdecb _ => "CTRDECB"
  | .ctrdecf _ => "CTRDECF"
  | .rdctr => "RDCTR"

/-- The operands of a command, each as R95 writes it. -/
def operandTexts : Instr → List (List Char)
  | .gfmul a b => [hexByte a, hexByte b]
  | .sbox a => [hexByte a]
  | .isbox a => [hexByte a]
  | .rotw w => [hexWord w]
  | .subw w => [hexWord w]
  | .rcon j => [hexByte j]
  | .subb data => [hexString data]
  | .isubb data => [hexString data]
  | .shrows data => [hexString data]
  | .ishrows data => [hexString data]
  | .mixcol data => [hexString data]
  | .imixcol data => [hexString data]
  | .addrk rk data => [hexByte rk, hexString data]
  | .inc32 data => [hexString data]
  | .pad data => [hexString data]
  | .unpad data => [hexString data]
  | .keyexp key => [hexString key]
  | .rdrk i => [hexByte i]
  | .encblk data => [hexString data]
  | .decblk data => [hexString data]
  | .cbcinit iv => [hexString iv]
  | .cbcencb data => [hexString data]
  | .cbcencf data => [hexString data]
  | .cbcdecb data => [hexString data]
  | .cbcdecf data => [hexString data]
  | .rdcv => []
  | .ctrinit ctr => [hexString ctr]
  | .ctrencb data => [hexString data]
  | .ctrencf data => [hexString data]
  | .ctrdecb data => [hexString data]
  | .ctrdecf data => [hexString data]
  | .rdctr => []

/-- Operands after a mnemonic: a space before the first, a comma and a space before each later one (R95). -/
def joinOperands : List (List Char) → List Char
  | [] => []
  | [t] => t
  | t :: u :: rest => t ++ [',', ' '] ++ joinOperands (u :: rest)

/-- A request as R95 writes it. -/
def requestText (i : Instr) : List Char :=
  match operandTexts i with
  | [] => (mnemonic i).toList
  | t :: rest => (mnemonic i).toList ++ [' '] ++ joinOperands (t :: rest)

/-- The name of a status (60_exceptions.md R200). -/
def errorName : CmdError → String
  | .invalidKeyLength => "InvalidKeyLength"
  | .invalidBlockLength => "InvalidBlockLength"
  | .invalidPadding => "InvalidPadding"
  | .notReady => "NotReady"
  | .illegalCommand => "IllegalCommand"

/-- A command's response as R95 writes it: counted bytes without their count, `OK` alone where there is no payload. -/
def responseText (i : Instr) : Response → List Char
  | .error e => (errorName e).toList
  | .ok payload =>
    match payloadForm i with
    | .none => "OK".toList
    | .byte => "OK ".toList ++ hexString (payloadData i payload)
    | .word => "OK ".toList ++ hexString (payloadData i payload)
    | .block => "OK ".toList ++ hexString (payloadData i payload)
    | .counted => "OK ".toList ++ hexString (payloadData i payload)

end Sys2Proof.Machine
end

