-- ==== Sys2Proof/Tests/Slice0.lean ====
section
/-! SUPPORT. Tests of single steps against the worked examples of spec/ (each test names its vector), the decoder's
words, ill-formed commands, and for each statement of Certificates/Slice0/Obligations.lean that has hypotheses a state
and operands that meet them (named `witness_` and the statement's name). -/

namespace Sys2Proof.Tests

open Sys2Proof Sys2Proof.Machine

set_option maxRecDepth 100000

/-! ## States the tests start from -/

/-- Reset, with these events waiting. -/
def holding (events : List HostEvent) : State := { State.reset with inbox := events }

/-- The key of the standing set-up `K128` (95_test_vectors.md, opening). -/
def key128 : List Byte :=
  [0x2b, 0x7e, 0x15, 0x16, 0x28, 0xae, 0xd2, 0xa6, 0xab, 0xf7, 0x15, 0x88, 0x09, 0xcf, 0x4f, 0x3c]

/-- 16 bytes counting up from `n`. -/
def counting (n : Nat) : List Byte := (List.range 16).map fun i => byteOfNat (n + i)

/-- After `K128`. -/
def keyed : State := State.reset.setSchedule (scheduleStore .nk4 (expand key128 4) 0) .nk4

/-- After `K128` and `IV0`, the IV being 00 01 .. 0f. -/
def chained : State := keyed.initCv (blockOfBytes (counting 0x00))

/-- After `K128` and `CTR0`, the counter being f0 f1 .. ff. -/
def counted : State := keyed.initCb (blockOfBytes (counting 0xf0))

/-- A schedule of sixty zero words, for checks that look at its size and not at its words. -/
def zeroSchedule (k : KeyLen) : State := { State.reset with nk := k, ksValid := true }

/-- The response bytes to one request. -/
def answer (s : State) (request : List Byte) : Option (List Byte) :=
  (transact request s).map fun p => responseBytes p.2

/-! ## Ill-formed commands (30_encoding.md R72: one length byte) -/

theorem test_length_fits : (Instr.subb (List.replicate 255 0)).wellFormed = true ∧
    (Instr.addrk 0 (List.replicate 255 0)).wellFormed = true ∧ (Instr.pad []).wellFormed = true := by decide

theorem test_length_does_not_fit : ([.subb, .isubb, .shrows, .ishrows, .mixcol, .imixcol, .inc32, .pad, .unpad, .keyexp, .encblk, .decblk, .cbcinit,
  .cbcencb, .cbcencf, .cbcdecb, .cbcdecf, .ctrinit, .ctrencb, .ctrencf, .ctrdecb, .ctrdecf] : List (List Byte → Instr)).all
    (fun command => (command (List.replicate 256 0)).wellFormed == false) = true := by decide

/-- Log 8: 272 bytes are sent with the length byte 0x10, and are no block operand. -/
theorem test_over_long_operand : decode (encode (.cbcinit (List.replicate 272 0))) = .error .badFraming ∧
    (encode (.cbcinit (List.replicate 272 0))).getD 1 0 = 0x10 := by decide

theorem test_addrk_length_does_not_fit : (Instr.addrk 0 (List.replicate 256 0)).wellFormed = false := by decide

/-! ## Every command's request, written out from the formats and the opcode map (30_encoding.md R72, R80) -/

theorem test_decode_gfmul : decode [0x01, 0x57, 0x83] = .ok (.gfmul 0x57 0x83) := by decide

theorem test_decode_sbox : decode [0x02, 0x8f] = .ok (.sbox 0x8f) := by decide

theorem test_decode_isbox : decode [0x03, 0x8f] = .ok (.isbox 0x8f) := by decide

theorem test_decode_rotw : decode [0x04, 0x01, 0x02, 0x03, 0x04] = .ok (.rotw 0x01020304) := by decide

theorem test_decode_subw : decode [0x05, 0x01, 0x02, 0x03, 0x04] = .ok (.subw 0x01020304) := by decide

theorem test_decode_rcon : decode [0x06, 0x8f] = .ok (.rcon 0x8f) := by decide

theorem test_decode_subb : decode [0x10, 0x10, 0xa0, 0xa1, 0xa2, 0xa3, 0xa4, 0xa5, 0xa6, 0xa7, 0xa8, 0xa9, 0xaa, 0xab,
  0xac, 0xad, 0xae, 0xaf] = .ok (.subb [0xa0, 0xa1, 0xa2, 0xa3, 0xa4, 0xa5, 0xa6, 0xa7, 0xa8, 0xa9, 0xaa, 0xab, 0xac,
  0xad, 0xae, 0xaf]) := by decide

theorem test_decode_isubb : decode [0x11, 0x10, 0xa0, 0xa1, 0xa2, 0xa3, 0xa4, 0xa5, 0xa6, 0xa7, 0xa8, 0xa9, 0xaa,
  0xab, 0xac, 0xad, 0xae, 0xaf] = .ok (.isubb [0xa0, 0xa1, 0xa2, 0xa3, 0xa4, 0xa5, 0xa6, 0xa7, 0xa8, 0xa9, 0xaa, 0xab,
  0xac, 0xad, 0xae, 0xaf]) := by decide

theorem test_decode_shrows : decode [0x12, 0x10, 0xa0, 0xa1, 0xa2, 0xa3, 0xa4, 0xa5, 0xa6, 0xa7, 0xa8, 0xa9, 0xaa,
  0xab, 0xac, 0xad, 0xae, 0xaf] = .ok (.shrows [0xa0, 0xa1, 0xa2, 0xa3, 0xa4, 0xa5, 0xa6, 0xa7, 0xa8, 0xa9, 0xaa,
  0xab, 0xac, 0xad, 0xae, 0xaf]) := by decide

theorem test_decode_ishrows : decode [0x13, 0x10, 0xa0, 0xa1, 0xa2, 0xa3, 0xa4, 0xa5, 0xa6, 0xa7, 0xa8, 0xa9, 0xaa,
  0xab, 0xac, 0xad, 0xae, 0xaf] = .ok (.ishrows [0xa0, 0xa1, 0xa2, 0xa3, 0xa4, 0xa5, 0xa6, 0xa7, 0xa8, 0xa9, 0xaa,
  0xab, 0xac, 0xad, 0xae, 0xaf]) := by decide

theorem test_decode_mixcol : decode [0x14, 0x10, 0xa0, 0xa1, 0xa2, 0xa3, 0xa4, 0xa5, 0xa6, 0xa7, 0xa8, 0xa9, 0xaa,
  0xab, 0xac, 0xad, 0xae, 0xaf] = .ok (.mixcol [0xa0, 0xa1, 0xa2, 0xa3, 0xa4, 0xa5, 0xa6, 0xa7, 0xa8, 0xa9, 0xaa,
  0xab, 0xac, 0xad, 0xae, 0xaf]) := by decide

theorem test_decode_imixcol : decode [0x15, 0x10, 0xa0, 0xa1, 0xa2, 0xa3, 0xa4, 0xa5, 0xa6, 0xa7, 0xa8, 0xa9, 0xaa,
  0xab, 0xac, 0xad, 0xae, 0xaf] = .ok (.imixcol [0xa0, 0xa1, 0xa2, 0xa3, 0xa4, 0xa5, 0xa6, 0xa7, 0xa8, 0xa9, 0xaa,
  0xab, 0xac, 0xad, 0xae, 0xaf]) := by decide

theorem test_decode_addrk : decode [0x16, 0x0a, 0x10, 0xa0, 0xa1, 0xa2, 0xa3, 0xa4, 0xa5, 0xa6, 0xa7, 0xa8, 0xa9,
  0xaa, 0xab, 0xac, 0xad, 0xae, 0xaf] = .ok (.addrk 0x0a [0xa0, 0xa1, 0xa2, 0xa3, 0xa4, 0xa5, 0xa6, 0xa7, 0xa8, 0xa9,
  0xaa, 0xab, 0xac, 0xad, 0xae, 0xaf]) := by decide

theorem test_decode_inc32 : decode [0x17, 0x10, 0xa0, 0xa1, 0xa2, 0xa3, 0xa4, 0xa5, 0xa6, 0xa7, 0xa8, 0xa9, 0xaa,
  0xab, 0xac, 0xad, 0xae, 0xaf] = .ok (.inc32 [0xa0, 0xa1, 0xa2, 0xa3, 0xa4, 0xa5, 0xa6, 0xa7, 0xa8, 0xa9, 0xaa, 0xab,
  0xac, 0xad, 0xae, 0xaf]) := by decide

theorem test_decode_pad : decode [0x18, 0x02, 0x6b, 0xc1] = .ok (.pad [0x6b, 0xc1]) := by decide

theorem test_decode_unpad : decode [0x19, 0x10, 0xa0, 0xa1, 0xa2, 0xa3, 0xa4, 0xa5, 0xa6, 0xa7, 0xa8, 0xa9, 0xaa,
  0xab, 0xac, 0xad, 0xae, 0xaf] = .ok (.unpad [0xa0, 0xa1, 0xa2, 0xa3, 0xa4, 0xa5, 0xa6, 0xa7, 0xa8, 0xa9, 0xaa, 0xab,
  0xac, 0xad, 0xae, 0xaf]) := by decide

theorem test_decode_keyexp : decode [0x20, 0x10, 0xa0, 0xa1, 0xa2, 0xa3, 0xa4, 0xa5, 0xa6, 0xa7, 0xa8, 0xa9, 0xaa,
  0xab, 0xac, 0xad, 0xae, 0xaf] = .ok (.keyexp [0xa0, 0xa1, 0xa2, 0xa3, 0xa4, 0xa5, 0xa6, 0xa7, 0xa8, 0xa9, 0xaa,
  0xab, 0xac, 0xad, 0xae, 0xaf]) := by decide

theorem test_decode_rdrk : decode [0x21, 0x8f] = .ok (.rdrk 0x8f) := by decide

theorem test_decode_encblk : decode [0x30, 0x10, 0xa0, 0xa1, 0xa2, 0xa3, 0xa4, 0xa5, 0xa6, 0xa7, 0xa8, 0xa9, 0xaa,
  0xab, 0xac, 0xad, 0xae, 0xaf] = .ok (.encblk [0xa0, 0xa1, 0xa2, 0xa3, 0xa4, 0xa5, 0xa6, 0xa7, 0xa8, 0xa9, 0xaa,
  0xab, 0xac, 0xad, 0xae, 0xaf]) := by decide

theorem test_decode_decblk : decode [0x31, 0x10, 0xa0, 0xa1, 0xa2, 0xa3, 0xa4, 0xa5, 0xa6, 0xa7, 0xa8, 0xa9, 0xaa,
  0xab, 0xac, 0xad, 0xae, 0xaf] = .ok (.decblk [0xa0, 0xa1, 0xa2, 0xa3, 0xa4, 0xa5, 0xa6, 0xa7, 0xa8, 0xa9, 0xaa,
  0xab, 0xac, 0xad, 0xae, 0xaf]) := by decide

theorem test_decode_cbcinit : decode [0x40, 0x10, 0xa0, 0xa1, 0xa2, 0xa3, 0xa4, 0xa5, 0xa6, 0xa7, 0xa8, 0xa9, 0xaa,
  0xab, 0xac, 0xad, 0xae, 0xaf] = .ok (.cbcinit [0xa0, 0xa1, 0xa2, 0xa3, 0xa4, 0xa5, 0xa6, 0xa7, 0xa8, 0xa9, 0xaa,
  0xab, 0xac, 0xad, 0xae, 0xaf]) := by decide

theorem test_decode_cbcencb : decode [0x41, 0x10, 0xa0, 0xa1, 0xa2, 0xa3, 0xa4, 0xa5, 0xa6, 0xa7, 0xa8, 0xa9, 0xaa,
  0xab, 0xac, 0xad, 0xae, 0xaf] = .ok (.cbcencb [0xa0, 0xa1, 0xa2, 0xa3, 0xa4, 0xa5, 0xa6, 0xa7, 0xa8, 0xa9, 0xaa,
  0xab, 0xac, 0xad, 0xae, 0xaf]) := by decide

theorem test_decode_cbcencf : decode [0x42, 0x00] = .ok (.cbcencf []) := by decide

theorem test_decode_cbcdecb : decode [0x43, 0x10, 0xa0, 0xa1, 0xa2, 0xa3, 0xa4, 0xa5, 0xa6, 0xa7, 0xa8, 0xa9, 0xaa,
  0xab, 0xac, 0xad, 0xae, 0xaf] = .ok (.cbcdecb [0xa0, 0xa1, 0xa2, 0xa3, 0xa4, 0xa5, 0xa6, 0xa7, 0xa8, 0xa9, 0xaa,
  0xab, 0xac, 0xad, 0xae, 0xaf]) := by decide

theorem test_decode_cbcdecf : decode [0x44, 0x10, 0xa0, 0xa1, 0xa2, 0xa3, 0xa4, 0xa5, 0xa6, 0xa7, 0xa8, 0xa9, 0xaa,
  0xab, 0xac, 0xad, 0xae, 0xaf] = .ok (.cbcdecf [0xa0, 0xa1, 0xa2, 0xa3, 0xa4, 0xa5, 0xa6, 0xa7, 0xa8, 0xa9, 0xaa,
  0xab, 0xac, 0xad, 0xae, 0xaf]) := by decide

theorem test_decode_rdcv : decode [0x45] = .ok .rdcv := by decide

theorem test_decode_ctrinit : decode [0x50, 0x10, 0xa0, 0xa1, 0xa2, 0xa3, 0xa4, 0xa5, 0xa6, 0xa7, 0xa8, 0xa9, 0xaa,
  0xab, 0xac, 0xad, 0xae, 0xaf] = .ok (.ctrinit [0xa0, 0xa1, 0xa2, 0xa3, 0xa4, 0xa5, 0xa6, 0xa7, 0xa8, 0xa9, 0xaa,
  0xab, 0xac, 0xad, 0xae, 0xaf]) := by decide

theorem test_decode_ctrencb : decode [0x51, 0x10, 0xa0, 0xa1, 0xa2, 0xa3, 0xa4, 0xa5, 0xa6, 0xa7, 0xa8, 0xa9, 0xaa,
  0xab, 0xac, 0xad, 0xae, 0xaf] = .ok (.ctrencb [0xa0, 0xa1, 0xa2, 0xa3, 0xa4, 0xa5, 0xa6, 0xa7, 0xa8, 0xa9, 0xaa,
  0xab, 0xac, 0xad, 0xae, 0xaf]) := by decide

theorem test_decode_ctrencf : decode [0x52, 0x01, 0x01] = .ok (.ctrencf [0x01]) := by decide

theorem test_decode_ctrdecb : decode [0x53, 0x10, 0xa0, 0xa1, 0xa2, 0xa3, 0xa4, 0xa5, 0xa6, 0xa7, 0xa8, 0xa9, 0xaa,
  0xab, 0xac, 0xad, 0xae, 0xaf] = .ok (.ctrdecb [0xa0, 0xa1, 0xa2, 0xa3, 0xa4, 0xa5, 0xa6, 0xa7, 0xa8, 0xa9, 0xaa,
  0xab, 0xac, 0xad, 0xae, 0xaf]) := by decide

theorem test_decode_ctrdecf : decode [0x54, 0x10, 0xa0, 0xa1, 0xa2, 0xa3, 0xa4, 0xa5, 0xa6, 0xa7, 0xa8, 0xa9, 0xaa,
  0xab, 0xac, 0xad, 0xae, 0xaf] = .ok (.ctrdecf [0xa0, 0xa1, 0xa2, 0xa3, 0xa4, 0xa5, 0xa6, 0xa7, 0xa8, 0xa9, 0xaa,
  0xab, 0xac, 0xad, 0xae, 0xaf]) := by decide

theorem test_decode_rdctr : decode [0x55] = .ok .rdctr := by decide

/-- The numbering of opcode_table.json: byte 0 lowest, the operand words the table leaves out zero. -/
theorem test_table_words : decodeTableWord 24 0x835701 = some (.gfmul 0x57 0x83) ∧
    decodeTableWord 8 0x45 = some .rdcv ∧ decodeTableWord 16 0x0010 = some (.subb []) ∧
    decodeTableWord 8 0x04 = some (.rotw 0) ∧ decodeTableWord 8 0x07 = none := by decide

/-- The very next step runs the word placed. -/
theorem test_fetch_word : step (State.reset.withFetchWord 24 0x835701) =
    .next (State.reset.answer (.ok [0xc1])) := rfl

/-! ## Single steps -/

/-- 96_derived_vectors.md T13. -/
theorem test_gfmul : answer State.reset [0x01, 0x57, 0x83] = some [0x00, 0xc1] := by decide

/-- T13. -/
theorem test_gfmul_reduces : answer State.reset [0x01, 0x80, 0x80] = some [0x00, 0x9a] := by decide

/-- T14 row 4. -/
theorem test_sbox : answer State.reset [0x02, 0x53] = some [0x00, 0xed] := by decide

/-- T14 row 3: row a[7:4], column a[3:0]. -/
theorem test_sbox_row_then_column : answer State.reset [0x02, 0x10] = some [0x00, 0xca] := by decide

/-- T14 row 14. -/
theorem test_isbox : answer State.reset [0x03, 0xff] = some [0x00, 0x7d] := by decide

/-- T14 row 10. -/
theorem test_isbox_of_63 : answer State.reset [0x03, 0x63] = some [0x00, 0x00] := by decide

/-- T14 row 20. -/
theorem test_rotw : answer State.reset [0x04, 0x09, 0xcf, 0x4f, 0x3c] = some [0x00, 0xcf, 0x4f, 0x3c,
  0x09] := by decide

/-- T14 row 17. -/
theorem test_subw : answer State.reset [0x05, 0xcf, 0x4f, 0x3c, 0x09] = some [0x00, 0x8a, 0x84, 0xeb,
  0x01] := by decide

/-- T14: the fourteenth constant. -/
theorem test_rcon : answer State.reset [0x06, 0x0e] = some [0x00, 0x4d, 0x00, 0x00, 0x00] := by decide

/-- T14: there is no zeroth constant. -/
theorem test_rcon_zero : answer State.reset [0x06, 0x00] = some [0x05] := by decide

/-- T15 row 5. -/
theorem test_subb : answer State.reset [0x10, 0x10, 0x19, 0x3d, 0xe3, 0xbe, 0xa0, 0xf4, 0xe2, 0x2b, 0x9a, 0xc6, 0x8d,
  0x2a, 0xe9, 0xf8, 0x48, 0x08] = some [0x00, 0xd4, 0x27, 0x11, 0xae, 0xe0, 0xbf, 0x98, 0xf1, 0xb8, 0xb4, 0x5d, 0xe5,
  0x1e, 0x41, 0x52, 0x30] := by decide

/-- T15 row 2. -/
theorem test_isubb : answer State.reset [0x11, 0x10, 0x63, 0x7c, 0x77, 0x7b, 0xf2, 0x6b, 0x6f, 0xc5, 0x30, 0x01, 0x67,
  0x2b, 0xfe, 0xd7, 0xab, 0x76] = some [0x00, 0x00, 0x01, 0x02, 0x03, 0x04, 0x05, 0x06, 0x07, 0x08, 0x09, 0x0a, 0x0b,
  0x0c, 0x0d, 0x0e, 0x0f] := by decide

/-- T15 row 6. -/
theorem test_shrows : answer State.reset [0x12, 0x10, 0x00, 0x01, 0x02, 0x03, 0x04, 0x05, 0x06, 0x07, 0x08, 0x09,
  0x0a, 0x0b, 0x0c, 0x0d, 0x0e, 0x0f] = some [0x00, 0x00, 0x05, 0x0a, 0x0f, 0x04, 0x09, 0x0e, 0x03, 0x08, 0x0d, 0x02,
  0x07, 0x0c, 0x01, 0x06, 0x0b] := by decide

/-- T15 row 8. -/
theorem test_ishrows : answer State.reset [0x13, 0x10, 0x00, 0x01, 0x02, 0x03, 0x04, 0x05, 0x06, 0x07, 0x08, 0x09,
  0x0a, 0x0b, 0x0c, 0x0d, 0x0e, 0x0f] = some [0x00, 0x00, 0x0d, 0x0a, 0x07, 0x04, 0x01, 0x0e, 0x0b, 0x08, 0x05, 0x02,
  0x0f, 0x0c, 0x09, 0x06, 0x03] := by decide

/-- T16 row 1. -/
theorem test_mixcol : answer State.reset [0x14, 0x10, 0xdb, 0x13, 0x53, 0x45, 0xf2, 0x0a, 0x22, 0x5c, 0x01, 0x01,
  0x01, 0x01, 0xc6, 0xc6, 0xc6, 0xc6] = some [0x00, 0x8e, 0x4d, 0xa1, 0xbc, 0x9f, 0xdc, 0x58, 0x9d, 0x01, 0x01, 0x01,
  0x01, 0xc6, 0xc6, 0xc6, 0xc6] := by decide

/-- T16 row 8. -/
theorem test_imixcol : answer State.reset [0x15, 0x10, 0x01, 0x00, 0x00, 0x00, 0x00, 0x00, 0x00, 0x00, 0x00, 0x00,
  0x00, 0x00, 0x00, 0x00, 0x00, 0x00] = some [0x00, 0x0e, 0x09, 0x0d, 0x0b, 0x00, 0x00, 0x00, 0x00, 0x00, 0x00, 0x00,
  0x00, 0x00, 0x00, 0x00, 0x00] := by decide

/-- T17 row 4. -/
theorem test_addrk : answer keyed [0x16, 0x01, 0x10, 0x04, 0x66, 0x81, 0xe5, 0xe0, 0xcb, 0x19, 0x9a, 0x48, 0xf8, 0xd3,
  0x7a, 0x28, 0x06, 0x26, 0x4c] = some [0x00, 0xa4, 0x9c, 0x7f, 0xf2, 0x68, 0x9f, 0x35, 0x2b, 0x6b, 0x5b, 0xea, 0x43,
  0x02, 0x6a, 0x50, 0x49] := by decide

/-- T17 row 6. -/
theorem test_addrk_range : answer (zeroSchedule .nk4) [0x16, 0x0b, 0x10, 0x00, 0x00, 0x00, 0x00, 0x00, 0x00, 0x00,
  0x00, 0x00, 0x00, 0x00, 0x00, 0x00, 0x00, 0x00, 0x00] = some [0x05] := by decide

/-- 95_test_vectors.md T4 row 3. -/
theorem test_inc32 : answer State.reset [0x17, 0x10, 0xa5, 0xa5, 0xa5, 0xa5, 0xa5, 0xa5, 0xa5, 0xa5, 0xa5, 0xa5, 0xa5,
  0xa5, 0xff, 0xff, 0xff, 0xff] = some [0x00, 0xa5, 0xa5, 0xa5, 0xa5, 0xa5, 0xa5, 0xa5, 0xa5, 0xa5, 0xa5, 0xa5, 0xa5,
  0x00, 0x00, 0x00, 0x00] := by decide

/-- 97_mode_error_and_negative_vectors.md T29 row 23. -/
theorem test_pad_empty : answer State.reset [0x18, 0x00] = some [0x00, 0x10, 0x10, 0x10, 0x10, 0x10, 0x10, 0x10, 0x10,
  0x10, 0x10, 0x10, 0x10, 0x10, 0x10, 0x10, 0x10] := by decide

/-- R74: a tail is 0 to 15 bytes. -/
theorem test_pad_too_long : answer State.reset [0x18, 0x10, 0x00, 0x00, 0x00, 0x00, 0x00, 0x00, 0x00, 0x00, 0x00,
  0x00, 0x00, 0x00, 0x00, 0x00, 0x00, 0x00] = some [0x02] := by decide

/-- 45_padding_cbc.md R161: the last byte is the count. -/
theorem test_unpad : answer State.reset [0x19, 0x10, 0x6b, 0xc1, 0xbe, 0xe2, 0x2e, 0x0b, 0x0b, 0x0b, 0x0b, 0x0b, 0x0b,
  0x0b, 0x0b, 0x0b, 0x0b, 0x0b] = some [0x00, 0x05, 0x6b, 0xc1, 0xbe, 0xe2, 0x2e] := by decide

/-- R161: a count above 16. -/
theorem test_unpad_bad : answer State.reset [0x19, 0x10, 0x00, 0x00, 0x00, 0x00, 0x00, 0x00, 0x00, 0x00, 0x00, 0x00,
  0x00, 0x00, 0x00, 0x00, 0x00, 0x11] = some [0x03] := by decide

/-- 95_test_vectors.md T1 row 1. -/
theorem test_keyexp : answer State.reset [0x20, 0x10, 0x2b, 0x7e, 0x15, 0x16, 0x28, 0xae, 0xd2, 0xa6, 0xab, 0xf7,
  0x15, 0x88, 0x09, 0xcf, 0x4f, 0x3c] = some [0x00] := by decide

/-- 97 T30 row 21. -/
theorem test_keyexp_length : answer State.reset [0x20, 0x0f, 0x00, 0x00, 0x00, 0x00, 0x00, 0x00, 0x00, 0x00, 0x00,
  0x00, 0x00, 0x00, 0x00, 0x00, 0x00] = some [0x01] := by decide

/-- 96_derived_vectors.md T19 row 4. -/
theorem test_rdrk : answer keyed [0x21, 0x2b] = some [0x00, 0xb6, 0x63, 0x0c, 0xa6] := by decide

/-- T19 row 5. -/
theorem test_rdrk_range : answer (zeroSchedule .nk4) [0x21, 0x2c] = some [0x05] := by decide

/-- T1 row 2. -/
theorem test_encblk : answer keyed [0x30, 0x10, 0x32, 0x43, 0xf6, 0xa8, 0x88, 0x5a, 0x30, 0x8d, 0x31, 0x31, 0x98,
  0xa2, 0xe0, 0x37, 0x07, 0x34] = some [0x00, 0x39, 0x25, 0x84, 0x1d, 0x02, 0xdc, 0x09, 0xfb, 0xdc, 0x11, 0x85, 0x97,
  0x19, 0x6a, 0x0b, 0x32] := by decide

/-- T29 row 3. -/
theorem test_encblk_not_ready : answer State.reset [0x30, 0x10, 0x00, 0x00, 0x00, 0x00, 0x00, 0x00, 0x00, 0x00, 0x00,
  0x00, 0x00, 0x00, 0x00, 0x00, 0x00, 0x00] = some [0x04] := by decide

/-- T1 row 3. -/
theorem test_decblk : answer keyed [0x31, 0x10, 0x39, 0x25, 0x84, 0x1d, 0x02, 0xdc, 0x09, 0xfb, 0xdc, 0x11, 0x85,
  0x97, 0x19, 0x6a, 0x0b, 0x32] = some [0x00, 0x32, 0x43, 0xf6, 0xa8, 0x88, 0x5a, 0x30, 0x8d, 0x31, 0x31, 0x98, 0xa2,
  0xe0, 0x37, 0x07, 0x34] := by decide

/-- T29 row 15. -/
theorem test_cbcinit : answer State.reset [0x40, 0x10, 0x00, 0x00, 0x00, 0x00, 0x00, 0x00, 0x00, 0x00, 0x00, 0x00,
  0x00, 0x00, 0x00, 0x00, 0x00, 0x00] = some [0x00] := by decide

/-- T2 row 3. -/
theorem test_cbcencb : answer chained [0x41, 0x10, 0x6b, 0xc1, 0xbe, 0xe2, 0x2e, 0x40, 0x9f, 0x96, 0xe9, 0x3d, 0x7e,
  0x11, 0x73, 0x93, 0x17, 0x2a] = some [0x00, 0x76, 0x49, 0xab, 0xac, 0x81, 0x19, 0xb2, 0x46, 0xce, 0xe9, 0x8e, 0x9b,
  0x12, 0xe9, 0x19, 0x7d] := by decide

/-- T30 row 28: the length is checked before the flags. -/
theorem test_cbcencf_too_long : answer State.reset [0x42, 0x10, 0x00, 0x00, 0x00, 0x00, 0x00, 0x00, 0x00, 0x00, 0x00,
  0x00, 0x00, 0x00, 0x00, 0x00, 0x00, 0x00] = some [0x02] := by decide

/-- T24 row 4. -/
theorem test_cbcdecb : answer chained [0x43, 0x10, 0x00, 0x00, 0x00, 0x00, 0x00, 0x00, 0x00, 0x00, 0x00, 0x00, 0x00,
  0x00, 0x00, 0x00, 0x00, 0x00] = some [0x00, 0xad, 0xb7, 0x35, 0x52, 0x48, 0xcf, 0x3f, 0x95, 0x2c, 0x25, 0xd2, 0xbc,
  0x51, 0xb0, 0x04, 0xda] := by decide

/-- T24 row 9. -/
theorem test_cbcdecf : answer chained [0x44, 0x10, 0xfc, 0x4e, 0x79, 0xe8, 0x0d, 0x88, 0x87, 0x71, 0x6f, 0xa2, 0xf8,
  0x58, 0x09, 0x91, 0xcd, 0x24] = some [0x00, 0x05, 0x6b, 0xc1, 0xbe, 0xe2, 0x2e] := by decide

/-- T24 row 2. -/
theorem test_cbcdecf_bad : answer chained [0x44, 0x10, 0x00, 0x00, 0x00, 0x00, 0x00, 0x00, 0x00, 0x00, 0x00, 0x00,
  0x00, 0x00, 0x00, 0x00, 0x00, 0x00] = some [0x03] := by decide

/-- T24 row 3. -/
theorem test_rdcv : answer chained [0x45] = some [0x00, 0x00, 0x01, 0x02, 0x03, 0x04, 0x05, 0x06, 0x07, 0x08, 0x09,
  0x0a, 0x0b, 0x0c, 0x0d, 0x0e, 0x0f] := by decide

/-- T29 row 5. -/
theorem test_rdcv_not_ready : answer State.reset [0x45] = some [0x04] := by decide

/-- T29 row 18. -/
theorem test_ctrinit : answer State.reset [0x50, 0x10, 0x00, 0x00, 0x00, 0x00, 0x00, 0x00, 0x00, 0x00, 0x00, 0x00,
  0x00, 0x00, 0x00, 0x00, 0x00, 0x00] = some [0x00] := by decide

/-- T3 row 3. -/
theorem test_ctrencb : answer counted [0x51, 0x10, 0x6b, 0xc1, 0xbe, 0xe2, 0x2e, 0x40, 0x9f, 0x96, 0xe9, 0x3d, 0x7e,
  0x11, 0x73, 0x93, 0x17, 0x2a] = some [0x00, 0x87, 0x4d, 0x61, 0x91, 0xb6, 0x20, 0xe3, 0x26, 0x1b, 0xef, 0x68, 0x64,
  0x99, 0x0d, 0xb6, 0xce] := by decide

/-- T28 row 2. -/
theorem test_ctrencf : answer counted [0x52, 0x05, 0x6b, 0xc1, 0xbe, 0xe2, 0x2e] = some [0x00, 0x87, 0x4d, 0x61, 0x91,
  0xb6, 0x6b, 0x77, 0xbb, 0xf9, 0xd9, 0x1d, 0x7e, 0xe1, 0x95, 0xaa, 0xef] := by decide

/-- T28 row 9. -/
theorem test_ctrdecb : answer counted [0x53, 0x10, 0xec, 0x8c, 0xdf, 0x73, 0x98, 0x60, 0x7c, 0xb0, 0xf2, 0xd2, 0x16,
  0x75, 0xea, 0x9e, 0xa1, 0xe4] = some [0x00, 0x00, 0x00, 0x00, 0x00, 0x00, 0x00, 0x00, 0x00, 0x00, 0x00, 0x00, 0x00,
  0x00, 0x00, 0x00, 0x00] := by decide

/-- T28 row 5. -/
theorem test_ctrdecf : answer counted [0x54, 0x10, 0x87, 0x4d, 0x61, 0x91, 0xb6, 0x6b, 0x77, 0xbb, 0xf9, 0xd9, 0x1d,
  0x7e, 0xe1, 0x95, 0xaa, 0xef] = some [0x00, 0x05, 0x6b, 0xc1, 0xbe, 0xe2, 0x2e] := by decide

/-- T28 row 12: the unpadded byte is 0x11. -/
theorem test_ctrdecf_bad : answer counted [0x54, 0x10, 0xec, 0x8c, 0xdf, 0x73, 0x98, 0x60, 0x7c, 0xb0, 0xf2, 0xd2,
  0x16, 0x75, 0xea, 0x9e, 0xa1, 0xf5] = some [0x03] := by decide

/-- T28 row 8. -/
theorem test_rdctr : answer counted [0x55] = some [0x00, 0xf0, 0xf1, 0xf2, 0xf3, 0xf4, 0xf5, 0xf6, 0xf7, 0xf8, 0xf9,
  0xfa, 0xfb, 0xfc, 0xfd, 0xfe, 0xff] := by decide

/-- T30 row 1. -/
theorem test_empty_request : answer State.reset [] = some [0x05] := by decide

/-- T30 row 15. -/
theorem test_trailing_byte : answer State.reset [0x45, 0x00] = some [0x05] := by decide

/-- 00_scope.md R9, 30_encoding.md R90: no opcode reaches a GHASH unit. -/
theorem test_ghash_space : answer State.reset [0x70] = some [0x05] := by decide

/-- 97 T23 row 3: the padded tail is chained; the chaining value is the first block's ciphertext. -/
theorem test_cbcencf : answer (keyed.initCv (blockOfBytes [0x76, 0x49, 0xab, 0xac, 0x81, 0x19, 0xb2, 0x46, 0xce, 0xe9,
    0x8e, 0x9b, 0x12, 0xe9, 0x19, 0x7d])) [0x42, 0x03, 0xae, 0x2d, 0x8a] = some [0x00, 0x0c, 0xb2, 0xda, 0xd7, 0xeb,
    0xde, 0xaa, 0xa1, 0xba, 0x2d, 0x4e, 0x2c, 0x05, 0x83, 0x87, 0x29] := by decide

/-- 45_padding_cbc.md R161, 92_eei_decisions.md D13: with `UNPAD_STRICT` a wrong pad byte is InvalidPadding, without it only the last byte
counts. -/
theorem test_unpad_strict : unpadFinal true (blockOfBytes [0, 0, 0, 0, 0, 0, 0, 0, 0, 0, 0, 0, 0, 0, 9, 2]) =
      .error .invalidPadding ∧
    unpadFinal true (blockOfBytes [1, 0, 0, 0, 0, 0, 0, 0, 0, 0, 0, 0, 0, 0, 2, 2]) =
      .ok [1, 0, 0, 0, 0, 0, 0, 0, 0, 0, 0, 0, 0, 0] ∧
    unpadFinal false (blockOfBytes [1, 0, 0, 0, 0, 0, 0, 0, 0, 0, 0, 0, 0, 0, 9, 2]) =
      .ok [1, 0, 0, 0, 0, 0, 0, 0, 0, 0, 0, 0, 0, 0] := by decide

/-- The examples of 30_encoding.md R95, as written. -/
theorem test_request_text : requestText (.gfmul 0x57 0x83) = "GFMUL 57, 83".toList ∧
    requestText (.rotw 0x09cf4f3c) = "ROTW 09cf4f3c".toList ∧ requestText (.cbcencf []) = "CBCENCF -".toList ∧
    requestText (.addrk 0 [0x32, 0x43]) = "ADDRK 00, 3243".toList := by decide

/-- R95: a response, counted bytes without their count. -/
theorem test_response_text : responseText (.gfmul 0x57 0x83) (.ok [0xc1]) = "OK c1".toList ∧
    responseText (.unpad []) (.ok [0x00]) = "OK -".toList ∧
    responseText (.unpad []) (.ok [0x01, 0xff]) = "OK ff".toList ∧
    responseText (.encblk []) (.error .notReady) = "NotReady".toList := by decide

/-- R96, D15: a ciphertext of one byte is refused by the host. -/
theorem test_cbcdec_one_byte : runPseudo (.cbcdec key128 [0x01]) keyed = some (keyed, .error .invalidBlockLength) := rfl

/-! ## Witnesses: each statement's hypotheses can be met, each clause at the ends of its range -/

theorem witness_StepTakesTheNextEvent : State.reset.inbox = [] ∧ (holding [.reset]).inbox = .reset :: [] ∧
    (holding [.request [0x45]]).inbox = .request [0x45] :: [] ∧ decode [0x45] = .ok .rdcv ∧
    (holding [.request []]).inbox = .request [] :: [] ∧ decode [] = .error .emptyRequest := by decide

theorem witness_ResetClearsTheFlags : ({ chained with inbox := [.reset] } : State).inbox = .reset :: [] := rfl

theorem witness_FramingIsChecked : (holding [.request [0x45, 0x00]]).inbox = .request [0x45, 0x00] :: [] ∧
    requiredLength [0x45, 0x00] ≠ some 2 ∧ requiredLength [] ≠ some 0 ∧ requiredLength [0x45] = some 1 ∧
    requiredLength [0x18, 0x00] = some 2 ∧ requiredLength [0x16, 0x00, 0xff] = some 258 := by decide

theorem witness_UnlistedOpcodesAreIllegal : (holding [.request [0x00]]).inbox = .request (0x00 :: []) :: [] ∧
    ∀ op ∈ ([0x00, 0x07, 0x0f, 0x1a, 0x1f, 0x22, 0x2f, 0x32, 0x3f, 0x46, 0x4f, 0x56, 0xff] : List Byte),
      illegalOpcode op := by unfold illegalOpcode; decide

theorem witness_DecodeOfEncode : (Instr.addrk 0xff (List.replicate 255 0)).wellFormed = true ∧
    (Instr.pad []).wellFormed = true ∧ Instr.rdctr.wellFormed = true := by decide

theorem witness_EncodeOfDecode : decode [0x42, 0x00] = .ok (.cbcencf []) := by decide

theorem witness_PayloadHasTheOpcodesForm : exec (.sbox 0x00) State.reset = .next (State.reset.answer (.ok [0x63])) ∧
    (State.reset.answer (.ok [0x63])).outbox = State.reset.outbox ++ [.ok [0x63]] := ⟨rfl, rfl⟩

/-- A request of each kind, and one command for each status, among them the examples of 60_exceptions.md R208. -/
theorem witness_ErrorsInOrderOfPriority :
    (holding [.request [0x45, 0x00]]).inbox = .request [0x45, 0x00] :: [] ∧ requiredLength [0x45, 0x00] ≠ some 2 ∧
    requiredLength [0x45] = some 1 ∧
    expectedError (.encblk (List.replicate 15 0)) State.reset = some .invalidBlockLength ∧
    expectedError (.pad (List.replicate 16 0)) State.reset = some .invalidBlockLength ∧
    expectedError (.keyexp (List.replicate 20 0)) State.reset = some .invalidKeyLength ∧
    expectedError (.addrk 0xff (List.replicate 16 0)) State.reset = some .notReady ∧
    expectedError (.addrk 0x0b (List.replicate 16 0)) (zeroSchedule .nk4) = some .illegalCommand ∧
    expectedError (.rdrk 0x3c) (zeroSchedule .nk8) = some .illegalCommand ∧
    expectedError (.rcon 0x00) State.reset = some .illegalCommand ∧
    expectedError (.unpad (List.replicate 16 0)) State.reset = some .invalidPadding ∧
    expectedError (.unpad (List.replicate 16 16)) State.reset = none := by decide

theorem witness_CommandsWithNoErrorAnswerOk : expectedError (.unpad (List.replicate 16 16)) State.reset = none ∧
    expectedError (.addrk 0x0a (List.replicate 16 0)) (zeroSchedule .nk4) = none := by decide

theorem witness_ErrorWritesNothing : exec .rdcv State.reset = .next (State.reset.answer (.error .notReady)) ∧
    (State.reset.answer (.error .notReady)).outbox = State.reset.outbox ++ [.error .notReady] := ⟨rfl, rfl⟩

/-- SBOX writes none of the registers, so that every clause applies to it. -/
theorem witness_CommandsWriteOnlyTheirRegisters :
    exec (.sbox 0x00) chained = .next (chained.answer (.ok [0x63])) ∧ writesSchedule (.sbox 0x00) = false ∧
    writesCv (.sbox 0x00) = false ∧ writesCvValid (.sbox 0x00) = false ∧ writesCb (.sbox 0x00) = false ∧
    writesCbValid (.sbox 0x00) = false := ⟨rfl, rfl, rfl, rfl, rfl, rfl⟩

/-- RDCV reads CV: two states that differ in CB, and so do KEYEXP, CBCINIT and CTRINIT, which write. -/
theorem witness_CommandsReadOnlyTheirRegisters :
    (usesCv .rdcv = true ∧ chained.cv = (chained.initCb (blockOfBytes [])).cv ∧
      chained.cvValid = (chained.initCb (blockOfBytes [])).cvValid ∧ usesSchedule .rdcv = false ∧
      usesCb .rdcv = false) ∧
    (∃ t, exec .rdcv chained = .next t) ∧ (∃ t, exec .rdcv (chained.initCb (blockOfBytes [])) = .next t) ∧
    (∃ t, exec (.keyexp key128) State.reset = .next t) ∧ (∃ t, exec (.keyexp key128) chained = .next t) ∧
    (∃ t, exec (.cbcinit key128) State.reset = .next t ∧ t.outbox = State.reset.outbox ++ [.ok []]) ∧
    (∃ t, exec (.ctrinit key128) State.reset = .next t ∧ t.outbox = State.reset.outbox ++ [.ok []]) :=
  ⟨⟨rfl, rfl, rfl, rfl, rfl⟩, ⟨_, rfl⟩, ⟨_, rfl⟩, ⟨_, rfl⟩, ⟨_, rfl⟩, ⟨_, rfl, rfl⟩, ⟨_, rfl, rfl⟩⟩

/-- A flag that stays, and each flag rising. -/
theorem witness_FlagsFallOnlyByReset :
    (∃ t, step { chained with inbox := [.request [0x45]] } = .next t ∧ chained.ksValid = true ∧
      chained.cvValid = true) ∧ counted.cbValid = true ∧
    (∃ t, step (holding [.request (encode (.keyexp key128))]) = .next t ∧ t.ksValid = true) ∧
    (∃ t, step (holding [.request (encode (.cbcinit key128))]) = .next t ∧ t.cvValid = true) ∧
    ∃ t, step (holding [.request (encode (.ctrinit key128))]) = .next t ∧ t.cbValid = true :=
  ⟨⟨_, rfl, rfl, rfl⟩, rfl, ⟨_, rfl, rfl⟩, ⟨_, rfl, rfl⟩, ⟨_, rfl, rfl⟩⟩

theorem witness_InvKeptByEveryStep : Inv chained ∧ step chained = .next chained ∧
    Inv (holding [.request (encode (.keyexp key128))]) ∧
    ∃ t, step (holding [.request (encode (.keyexp key128))]) = .next t ∧ t.ksValid = true :=
  ⟨⟨by decide, by decide⟩, rfl, ⟨by decide, by decide⟩, ⟨_, rfl, rfl⟩⟩

/-- Two reset machines with other values in the registers nobody can read yet. -/
theorem witness_UnsetValuesAreNeverObserved :
    SameVisible State.reset { State.reset with cv := blockOfBytes [1], cb := blockOfBytes [2], nk := .nk8 } ∧
    SameVisible (zeroSchedule .nk4) { zeroSchedule .nk4 with w := (zeroSchedule .nk4).w.set 44 1, staleCount := 7 } ∧
    step State.reset = .next State.reset :=
  ⟨⟨rfl, rfl, rfl, by decide, by decide, by decide, by decide, rfl, rfl⟩,
    ⟨rfl, rfl, rfl, by decide, by decide, by decide, by decide, rfl, rfl⟩, rfl⟩

/-- 53 and ca are inverses (96_derived_vectors.md T13). -/
theorem witness_GaloisFieldLaws : (0x53 : Byte) ≠ 0 ∧ gfmul 0x53 0xca = 1 := by decide

theorem witness_RoundConstants : 1 < 2 ∧ 1 ≤ 1 ∧ (1 : Byte) ≠ 0 ∧ (0xff : Byte) ≠ 0 := by decide

theorem witness_SubstitutionTables : sbox 0x00 = sbox 0x00 := rfl

theorem witness_SboxIsAffineOfInverse : ((0 : Byte) = 0 → (0 : Byte) = 0) ∧ ((0 : Byte) ≠ 0 → gfmul 0 0 = 1) ∧
    ((0x53 : Byte) = 0 → (0xca : Byte) = 0) ∧ ((0x53 : Byte) ≠ 0 → gfmul 0x53 0xca = 1) := by decide

theorem witness_SubBytesAndItsInverse : (counting 0x00).length = 16 := rfl

/-- Two States with the same column 0 and another column 1. -/
theorem witness_RoundOperationsByLanes :
    (∀ r, cell (load (blockOfBytes [])) r 0 = cell (load (blockOfBytes [0, 0, 0, 0, 1])) r 0) ∧
    load (blockOfBytes []) ≠ load (blockOfBytes [0, 0, 0, 0, 1]) := by decide

theorem witness_AddRoundKeyAndAddrk : (counting 0x00).length = 16 ∧ (zeroSchedule .nk4).ksValid = true ∧
    (0x0a : Byte).toNat ≤ keyWords (zeroSchedule .nk4).nk + 6 ∧ (0x0b : Byte).toNat > keyWords (zeroSchedule .nk4).nk + 6 ∧
    (0x0e : Byte).toNat ≤ keyWords (zeroSchedule .nk8).nk + 6 := by decide

theorem witness_CounterIncrement : 0 < 12 ∧ 11 < 12 ∧ (List.replicate 12 (0xa5 : Byte)).length = 12 := by decide

theorem witness_PaddingAlwaysAppends : ([] : List Byte).length ≤ 15 ∧ (List.replicate 15 (0 : Byte)).length ≤ 15 := by
  decide

/-- The last byte 0, 17, 1 and 16; a wrong pad byte; pad bytes that all agree. -/
theorem witness_UnpaddingReadsTheLastByte :
    (blockOfBytes [])[15].toNat = 0 ∧ (Vector.replicate 16 17 : Block)[15].toNat > 16 ∧
    (Vector.replicate 16 1 : Block)[15].toNat = 1 ∧ (Vector.replicate 16 16 : Block)[15].toNat = 16 ∧
    (∃ k : Fin 16, 16 - (Vector.replicate 16 2 : Block)[15].toNat ≤ k.val ∧
      (Vector.ofFn (fun i => if i.val = 15 then 2 else 0) : Block)[k] ≠ 2) ∧
    (∀ k : Fin 16, 0 ≤ k.val → (Vector.replicate 16 16 : Block)[k] = (Vector.replicate 16 16 : Block)[15]) ∧
    ([] : List Byte).length ≤ 15 ∧ (List.replicate 15 (0 : Byte)).length ≤ 15 ∧
    ([] : List Byte).length % 16 = 0 ∧ unpadFinal true (Vector.replicate 16 16) = .ok [] ∧
    unpadFinal false (Vector.replicate 16 0) = .error .invalidPadding := by decide

/-- The counts 0, 1, 16 and 17. -/
theorem witness_UnpadAnswersCountedBytes :
    (∀ p ∈ [0, 1, 16, 17], (List.replicate 16 (byteOfNat p)).length = 16 ∧
      p = ((List.replicate 16 (byteOfNat p)).getD 15 0).toNat) := by decide

theorem witness_KeyexpBuildsTheSchedule : key128.length = 4 * keyWords .nk4 ∧
    (List.replicate 24 (0 : Byte)).length = 4 * keyWords .nk6 ∧
    (List.replicate 32 (0 : Byte)).length = 4 * keyWords .nk8 ∧
    3 < keyWords .nk4 ∧ keyWords .nk4 ≤ 4 ∧ 43 < 4 * (keyWords .nk4 + 7) ∧ 59 < 4 * (keyWords .nk8 + 7) := by decide

theorem witness_RdrkReadsTheSchedule : key128.length = 4 * keyWords .nk4 ∧
    (∃ t, exec (.keyexp key128) State.reset = .next t) ∧ (∃ t, exec (.keyexp key128) (zeroSchedule .nk8) = .next t) ∧
    State.reset.ksValid = false ∧ (zeroSchedule .nk4).ksValid = true ∧
    (0x2b : Byte).toNat < 4 * (keyWords (zeroSchedule .nk4).nk + 7) ∧
    4 * (keyWords (zeroSchedule .nk4).nk + 7) ≤ (0x2c : Byte).toNat ∧
    (0x3b : Byte).toNat < 4 * (keyWords (zeroSchedule .nk8).nk + 7) ∧
    4 * (keyWords (zeroSchedule .nk8).nk + 7) ≤ (0x3c : Byte).toNat :=
  ⟨rfl, ⟨_, rfl⟩, ⟨_, rfl⟩, rfl, rfl, by decide, by decide, by decide, by decide⟩

theorem witness_CipherRunsTheRounds : (counting 0x00).length = 16 ∧ keyed.ksValid = true ∧
    10 = keyWords keyed.nk + 6 ∧ 14 = keyWords (zeroSchedule .nk8).nk + 6 := ⟨rfl, rfl, rfl, rfl⟩

theorem witness_DecryptionInvertsEncryption : (counting 0x00).length = 16 ∧ keyed.ksValid = true ∧
    chained.ksValid = true ∧ keyed.w = chained.w ∧ keyed.nk = chained.nk := ⟨rfl, rfl, rfl, rfl, rfl⟩

theorem witness_InitThenReadBack : (counting 0x00).length = 16 ∧ chained.cvValid = true ∧
    counted.cvValid = false ∧ counted.cbValid = true ∧ chained.cbValid = false := ⟨rfl, rfl, rfl, rfl, rfl⟩

theorem witness_CbcBlocksChain : chained.ksValid = true ∧ chained.cvValid = true ∧ (counting 0x00).length = 16 ∧
    ([] : List Byte).length ≤ 15 ∧ (List.replicate 15 (0 : Byte)).length ≤ 15 := ⟨rfl, rfl, rfl, by decide, by decide⟩

/-- `d` of the zero block under `K128`, with a chaining value of sixteen times the byte: the last byte of the decrypted
block is 0xd5 (97 T24 row 4, before the XOR with the IV), so that these chaining values make it 1, 16, 0 and 17. -/
theorem witness_CbcFinalBlockIsUnpadded : (List.replicate 16 (0 : Byte)).length = 16 ∧ keyed.ksValid = true ∧
    (keyed.initCv (Vector.replicate 16 0xd4)).cvValid = true ∧
    (([0xd4, 0xc5, 0xd5, 0xc4] : List Byte).map fun x =>
      (xorBlock (decryptUnder keyed (blockOfBytes (List.replicate 16 0))) (Vector.replicate 16 x))[15]) =
        [1, 16, 0, 17] := by
  refine ⟨rfl, rfl, rfl, ?_⟩
  decide

theorem witness_CbcDecryptsWhatItEncrypts : chained.ksValid = true ∧ chained.cvValid = true ∧
    (chained.initCb (blockOfBytes [])).ksValid = true ∧ chained.cv = (chained.initCb (blockOfBytes [])).cv ∧
    (counting 0x00).length = 16 ∧ ([] : List Byte).length ≤ 15 ∧ (List.replicate 15 (0 : Byte)).length ≤ 15 :=
  ⟨rfl, rfl, rfl, rfl, rfl, by decide, by decide⟩

theorem witness_CtrBlocksUseTheCounter : counted.ksValid = true ∧ counted.cbValid = true ∧
    (counting 0x00).length = 16 ∧ ([] : List Byte).length ≤ 15 ∧ (List.replicate 15 (0 : Byte)).length ≤ 15 :=
  ⟨rfl, rfl, rfl, by decide, by decide⟩

/-- The keystream block of `CTR0` ends in 0xe4 (95_test_vectors.md T3), so that these last bytes unpad to 1, 16, 0
and 17. -/
theorem witness_CtrFinalBlockIsUnpadded : (List.replicate 16 (0xe5 : Byte)).length = 16 ∧ counted.ksValid = true ∧
    counted.cbValid = true ∧
    (([0xe5, 0xf4, 0xe4, 0xf5] : List Byte).map fun x =>
      (xorBlock (blockOfBytes (List.replicate 16 x)) (encryptUnder counted counted.cb))[15]) = [1, 16, 0, 17] := by
  refine ⟨rfl, rfl, rfl, ?_⟩
  decide

theorem witness_CtrDecryptsWhatItEncrypts : counted.ksValid = true ∧ counted.cbValid = true ∧
    (counted.initCv (blockOfBytes [])).ksValid = true ∧ counted.cb = (counted.initCv (blockOfBytes [])).cb ∧
    (counting 0x00).length = 16 ∧ ([] : List Byte).length ≤ 15 ∧ (List.replicate 15 (0 : Byte)).length ≤ 15 :=
  ⟨rfl, rfl, rfl, rfl, rfl, by decide, by decide⟩

theorem witness_CounterSequence : 0 < 12 ∧ 11 < 12 := by decide

theorem witness_CbcCommandsComputeTheMessage : keyed.ksValid = true ∧ (counting 0x00).length = 16 ∧
    ((counting 0x00).length % 16 = 0 ∧ counting 0x00 ≠ []) ∧
    (([1] : List Byte).length % 16 ≠ 0 ∨ ([1] : List Byte) = []) ∧
    (([] : List Byte).length % 16 ≠ 0 ∨ ([] : List Byte) = []) :=
  ⟨rfl, rfl, by decide, by decide, .inr rfl⟩

theorem witness_CtrCommandsComputeTheMessage : keyed.ksValid = true ∧ (counting 0xf0).length = 16 ∧
    ((counting 0x00).length % 16 = 0 ∧ counting 0x00 ≠ []) ∧
    ((List.replicate 17 (0 : Byte)).length % 16 ≠ 0 ∨ List.replicate 17 (0 : Byte) = []) ∧
    (([] : List Byte).length % 16 ≠ 0 ∨ ([] : List Byte) = []) :=
  ⟨rfl, rfl, by decide, by decide, .inr rfl⟩

/-- From reset CBCINIT is answered OK and CBCENCF, for want of a schedule, is not; and CTRDEC of one block likewise. -/
theorem witness_MessageCommandsStopAtTheFirstError :
    (∃ u v g, issue [.cbcinit (counting 0x00)] [] State.reset = some (u, .ok g) ∧
      transact (encode (.cbcencf [])) u = some (v, .error .notReady)) ∧
    expandPseudo (.cbcenc (counting 0x00) []) = some ([.cbcinit (counting 0x00)] ++ .cbcencf [] :: []) ∧
    (∃ u v g, issue [.ctrinit (counting 0xf0)] [] State.reset = some (u, .ok g) ∧
      transact (encode (.ctrdecf (counting 0x00))) u = some (v, .error .notReady)) ∧
    expandPseudo (.ctrdec (counting 0xf0) (counting 0x00)) =
      some ([.ctrinit (counting 0xf0)] ++ .ctrdecf (counting 0x00) :: []) ∧
    (([1] : List Byte).length % 16 ≠ 0 ∨ ([1] : List Byte) = []) ∧
    (([] : List Byte).length % 16 ≠ 0 ∨ ([] : List Byte) = []) ∧
    (∀ n ∈ [0, 15, 17, 255], (List.replicate n (0 : Byte)).length ≠ 16 ∧ (List.replicate n (0 : Byte)).length ≤ 255) ∧
    ((counting 0x00).length = 16 ∧ (counting 0x00).length % 16 = 0 ∧ counting 0x00 ≠ []) ∧
    State.reset.ksValid = false :=
  ⟨⟨_, _, _, rfl, rfl⟩, rfl, ⟨_, _, _, rfl, rfl⟩, rfl, by decide, .inr rfl, by decide, by decide, rfl⟩

end Sys2Proof.Tests
end

section
/-! PROOFS. The request framing and the response forms (30_encoding.md R73, R76, R90). -/

namespace Sys2Proof

/-- A format reads its operands exactly when the request, its opcode included, has the format's total length (R73). -/
theorem readOperands_ok_iff (shape : Shape) (operands : List Byte) :
    (∃ i, readOperands shape operands = .ok i) ↔
      totalLength shape (operands.getD 0 0) (operands.getD 1 0) = operands.length + 1 := by
  cases shape with
  | z i => rcases operands with _ | ⟨a, rest⟩ <;> simp [readOperands, totalLength]
  | b1 f => rcases operands with _ | ⟨a, _ | ⟨b, rest⟩⟩ <;> simp [readOperands, totalLength]
  | b2 f => rcases operands with _ | ⟨a, _ | ⟨b, _ | ⟨c, rest⟩⟩⟩ <;> simp [readOperands, totalLength]
  | wd f =>
    rcases operands with _ | ⟨b0, _ | ⟨b1, _ | ⟨b2, _ | ⟨b3, _ | ⟨b4, rest⟩⟩⟩⟩⟩ <;> simp [readOperands, totalLength]
  | l f =>
    rcases operands with _ | ⟨len, data⟩
    · simp [readOperands, totalLength]
    · by_cases h : data.length = len.toNat <;> simp [readOperands, totalLength, h] <;> omega
  | rl f =>
    rcases operands with _ | ⟨rk, _ | ⟨len, data⟩⟩
    · simp [readOperands, totalLength]
    · simp [readOperands, totalLength]
    · by_cases h : data.length = len.toNat <;> simp [readOperands, totalLength, h] <;> omega

end Sys2Proof

namespace Sys2Proof.Machine

/-- For every row of the opcode map, R73's table of lengths gives the total length of the row's format. -/
theorem requiredLength_of_mem_opcodeMap (operands : List Byte) : ∀ row ∈ opcodeMap,
    requiredLength (row.1 :: operands) = some (totalLength row.2 (operands.getD 0 0) (operands.getD 1 0)) := by
  simp [opcodeMap, requiredLength, totalLength]

/-- R73's table of lengths has no entry for an opcode outside the map. -/
theorem requiredLength_of_shapeOf_eq_none {op : Byte} (operands : List Byte) (h : shapeOf op = none) :
    requiredLength (op :: operands) = none := by
  simp [shapeOf, opcodeMap, List.lookup_eq_none_iff] at h
  simp [requiredLength, h]

theorem mem_opcodeMap_of_shapeOf {op : Byte} {shape : Shape} (h : shapeOf op = some shape) :
    (op, shape) ∈ opcodeMap := by
  obtain ⟨before, after, hmap, -⟩ := List.lookup_eq_some_iff.1 h
  simp [hmap]

/-- R73's table of lengths agrees with the opcode map and its formats. -/
theorem requiredLength_cons (op : Byte) (operands : List Byte) :
    requiredLength (op :: operands) =
      (shapeOf op).map fun shape => totalLength shape (operands.getD 0 0) (operands.getD 1 0) := by
  cases hshape : shapeOf op with
  | none => exact requiredLength_of_shapeOf_eq_none operands hshape
  | some shape => exact requiredLength_of_mem_opcodeMap operands (op, shape) (mem_opcodeMap_of_shapeOf hshape)

/-- A request decodes exactly when its total length is the one R73 gives it. -/
theorem requiredLength_eq_length_iff (req : List Byte) :
    requiredLength req = some req.length ↔ ∃ i, decode req = .ok i := by
  cases req with
  | nil => simp [requiredLength, decode]
  | cons op operands =>
    rw [requiredLength_cons]
    cases hshape : shapeOf op with
    | none => simp [decode, hshape]
    | some shape => simpa [decode, hshape] using (readOperands_ok_iff shape operands).symm

/-- A byte string that is no command is answered IllegalCommand, and the step does nothing else (R205, R206). -/
theorem step_of_decode_error {s : State} {req : List Byte} {rest : List HostEvent} {r : Reject}
    (hin : s.inbox = .request req :: rest) (hdec : decode req = .error r) :
    step s = .next (State.answer { s with inbox := rest } (.error .illegalCommand)) :=
  step_eq_next.2 (.inr (.inr (.inr ⟨req, rest, r, hin, hdec, rfl⟩)))

/-- Settles O4: a request decodes exactly when it has R73's length, and one that does not decode is rejected. -/
theorem framingIsChecked : Obligations.FramingIsChecked := by
  intro s req rest hin
  refine ⟨requiredLength_eq_length_iff req, fun hlen => ?_⟩
  cases hdec : decode req with
  | ok i => exact absurd ((requiredLength_eq_length_iff req).2 ⟨i, hdec⟩) hlen
  | error r => exact step_of_decode_error hin hdec

/-- R90's list and the opcode map (R80) share out the 256 opcodes between them. -/
theorem illegalOpcode_iff_shapeOf_eq_none (op : Byte) : illegalOpcode op ↔ shapeOf op = none := by
  rw [← Option.isNone_iff_eq_none]
  revert op
  unfold illegalOpcode
  decide

/-- Settles O5: R90's list is what the opcode map leaves over, and the decoder rejects it before it reads an operand. -/
theorem unlistedOpcodesAreIllegal : Obligations.UnlistedOpcodesAreIllegal := by
  refine ⟨illegalOpcode_iff_shapeOf_eq_none, by decide +kernel, fun s op operands rest hop hin => ?_⟩
  have hshape : shapeOf op = none := (illegalOpcode_iff_shapeOf_eq_none op).1 hop
  exact step_of_decode_error (r := .unknownOpcode) hin (by simp [decode, hshape])

/-- From state `s` the result is a next state with one more response, whose payload has the form `form` if it is OK,
and nothing more taken from the host (R70, R76). -/
def Answers (form : PayloadForm) (s : State) (result : Result) : Prop :=
  ∃ t r, result = .next t ∧ t.outbox = s.outbox ++ [r] ∧ t.inbox = s.inbox ∧ ∀ p, r = .ok p → hasForm form p = true

section
variable {form : PayloadForm} {s u : State}

theorem Answers.of_raise (e : CmdError) : Answers form s (raise e s) :=
  ⟨s.answer (.error e), .error e, rfl, rfl, rfl, nofun⟩

/-- A command ends with OK in a state `u` in which its writes have left the channels alone. -/
theorem Answers.of_respond {payload : List Byte} (hp : hasForm form payload = true)
    (hout : u.outbox = s.outbox := by simp) (hin : u.inbox = s.inbox := by simp) :
    Answers form s (respond payload u) :=
  ⟨u.answer (.ok payload), .ok payload, rfl, by simp [hout], by simp [hin], fun p h => Response.ok.inj h ▸ hp⟩

theorem Answers.of_respond_word (w : Word) : Answers .word s (respond (wordBytes w) s) :=
  .of_respond (by simp [hasForm])

theorem Answers.of_respond_block (b : Block) (hout : u.outbox = s.outbox := by simp)
    (hin : u.inbox = s.inbox := by simp) :
    Answers .block s (respond (blockBytes b) u) :=
  .of_respond (by simp [hasForm]) hout hin

/-- A check before the rest of a command: it raises its error or lets the command go on (R208). -/
theorem Answers.of_check {check : Prop} [Decidable check] {e : CmdError} {body : Result} (h : Answers form s body) :
    Answers form s (if check then raise e s else body) := by
  split
  · exact .of_raise e
  · exact h

theorem Answers.of_withBlock {data : List Byte} {body : Block → Result} (h : ∀ b, Answers form s (body b)) :
    Answers form s (withBlock data s body) := by
  by_cases hlen : data.length = 16
  · exact withBlock_of_length hlen ▸ h _
  · exact withBlock_of_length_ne hlen ▸ .of_raise _

theorem Answers.of_withTail {data : List Byte} {body : List Byte → Result}
    (h : data.length ≤ 15 → Answers form s (body data)) : Answers form s (withTail data s body) := by
  by_cases hlen : data.length ≤ 15
  · exact withTail_of_length hlen ▸ h hlen
  · exact withTail_of_length_gt (Nat.lt_of_not_le hlen) ▸ .of_raise _

theorem Answers.of_withKey {key : List Byte} {body : KeyLen → Result} (h : ∀ k, Answers form s (body k)) :
    Answers form s (withKey key s body) := by
  unfold withKey
  split
  · exact h _
  · exact .of_raise _

theorem Answers.of_needSchedule {body : Result} (h : Answers form s body) : Answers form s (needSchedule s body) :=
  h.of_check

theorem Answers.of_needCv {body : Result} (h : Answers form s body) : Answers form s (needCv s body) := h.of_check

theorem Answers.of_needCb {body : Result} (h : Answers form s body) : Answers form s (needCb s body) := h.of_check

theorem Answers.of_needCbc {body : Result} (h : Answers form s body) : Answers form s (needCbc s body) := h.of_check

theorem Answers.of_needCtr {body : Result} (h : Answers form s body) : Answers form s (needCtr s body) := h.of_check

end

/-- A padded tail is one block (R160). -/
theorem length_padFinal {t : List Byte} (h : t.length ≤ 15) : (padFinal t).length = 16 := by
  simp only [padFinal, List.length_append, List.length_replicate]
  omega

/-- Unpadding leaves at most 15 bytes: the last byte counts at least one of them away (R161). -/
theorem length_le_of_unpadFinal_ok {strict : Bool} {d : Block} {m : List Byte} (h : unpadFinal strict d = .ok m) :
    m.length ≤ 15 := by
  unfold unpadFinal at h
  split at h
  · cases h
  · next hcount =>
    split at h
    · cases h
    · cases h
      simp only [List.length_take, length_blockBytes]
      omega

/-- At most 15 bytes with their count before them are counted bytes (R76). -/
theorem hasForm_countedBytes {m : List Byte} (h : m.length ≤ 15) : hasForm .counted (countedBytes m) = true := by
  simp only [countedBytes, hasForm, byteOfNat, BitVec.toNat_ofNat, Bool.and_eq_true, beq_iff_eq, decide_eq_true_eq]
  omega

theorem Answers.of_respondUnpadded {s c : State} (strict : Bool) (d : Block) (hout : c.outbox = s.outbox := by simp)
    (hin : c.inbox = s.inbox := by simp) : Answers .counted s (respondUnpadded strict d c s) := by
  unfold respondUnpadded
  split
  · next m hm => exact .of_respond (hasForm_countedBytes (length_le_of_unpadFinal_ok hm)) hout hin
  · exact .of_raise _

/-- Every command answers once, and an OK payload has the form of its opcode (R70, R76). -/
theorem exec_answers (i : Instr) (s : State) : Answers (payloadForm i) s (exec i s) := by
  cases i with simp only [exec, payloadForm]
  | gfmul a b => exact .of_respond rfl
  | sbox a => exact .of_respond rfl
  | isbox a => exact .of_respond rfl
  | rotw w => exact .of_respond_word _
  | subw w => exact .of_respond_word _
  | rcon j => exact .of_check (.of_respond_word _)
  | subb data => exact .of_withBlock fun b => .of_respond_block _
  | isubb data => exact .of_withBlock fun b => .of_respond_block _
  | shrows data => exact .of_withBlock fun b => .of_respond_block _
  | ishrows data => exact .of_withBlock fun b => .of_respond_block _
  | mixcol data => exact .of_withBlock fun b => .of_respond_block _
  | imixcol data => exact .of_withBlock fun b => .of_respond_block _
  | addrk rk data => exact .of_withBlock fun b => .of_needSchedule (.of_check (.of_respond_block _))
  | inc32 data => exact .of_withBlock fun b => .of_respond_block _
  | pad data => exact .of_withTail fun h => .of_respond (beq_iff_eq.2 (length_padFinal h))
  | unpad data => exact .of_withBlock fun d => .of_respondUnpadded _ _
  | keyexp key => exact .of_withKey fun k => .of_respond rfl
  | rdrk index => exact .of_needSchedule (.of_check (.of_respond_word _))
  | encblk data => exact .of_withBlock fun b => .of_needSchedule (.of_respond_block _)
  | decblk data => exact .of_withBlock fun b => .of_needSchedule (.of_respond_block _)
  | cbcinit iv => exact .of_withBlock fun b => .of_respond rfl
  | cbcencb data => exact .of_withBlock fun p => .of_needCbc (.of_respond_block _)
  | cbcencf data => exact .of_withTail fun _ => .of_needCbc (.of_respond_block _)
  | cbcdecb data => exact .of_withBlock fun c => .of_needCbc (.of_respond_block _)
  | cbcdecf data => exact .of_withBlock fun c => .of_needCbc (.of_respondUnpadded _ _)
  | rdcv => exact .of_needCv (.of_respond_block _)
  | ctrinit ctr => exact .of_withBlock fun b => .of_respond rfl
  | ctrencb data => exact .of_withBlock fun p => .of_needCtr (.of_respond_block _)
  | ctrencf data => exact .of_withTail fun _ => .of_needCtr (.of_respond_block _)
  | ctrdecb data => exact .of_withBlock fun c => .of_needCtr (.of_respond_block _)
  | ctrdecf data => exact .of_withBlock fun c => .of_needCtr (.of_respondUnpadded _ _)
  | rdctr => exact .of_needCb (.of_respond_block _)

/-- The lengths R76 allows a payload, one less than those of an OK response. -/
theorem length_of_hasForm {form : PayloadForm} {p : List Byte} (h : hasForm form p = true) :
    p.length = 0 ∨ p.length = 1 ∨ p.length = 4 ∨ p.length = 16 ∨ 1 ≤ p.length ∧ p.length ≤ 16 := by
  cases form with
  | none | byte | word | block =>
    simp only [hasForm, beq_iff_eq] at h
    omega
  | counted =>
    cases p with
    | nil => simp [hasForm] at h
    | cons n data =>
      simp only [hasForm, Bool.and_eq_true, decide_eq_true_eq] at h
      simp only [List.length_cons]
      omega

/-- No error has the status byte of OK (R200). -/
theorem statusCode_ne_zero (e : CmdError) : statusCode e ≠ 0x00 := by cases e <;> decide

/-- Settles O10: the one response a command gives is in the form of its opcode, which bounds its length. -/
theorem payloadHasTheOpcodesForm : Obligations.PayloadHasTheOpcodesForm := by
  refine ⟨fun p => rfl, fun e => ⟨rfl, statusCode_ne_zero e⟩, fun i s t p hexec hout => ?_⟩
  obtain ⟨u, r, hu, hur, -, hform⟩ := exec_answers i s
  obtain rfl : t = u := Host.Outcome.next.inj (hexec.symm.trans hu)
  have hr : r = .ok p := by simpa using hur.symm.trans hout
  have hp := hform p hr
  refine ⟨hp, ?_⟩
  have hlen := length_of_hasForm hp
  simp only [responseBytes, List.length_cons, List.mem_append, List.mem_cons, List.not_mem_nil, List.mem_range'_1]
  omega

end Sys2Proof.Machine
end

section
/-! PROOFS. The round-constant generator and the command RCON (40_gf_arithmetic.md R104, R105). -/

namespace Sys2Proof.Machine

/-- R104's recursion: each call doubles the constant of the call before. -/
theorem rc_eq_xtime {j : Nat} (h : 1 < j) : rc j = xtime (rc (j - 1)) := by
  obtain ⟨n, rfl⟩ := Nat.exists_eq_add_of_le' h
  rfl

theorem doubledOne_51 : doubledOne 51 = 0x01 := by decide +kernel

/-- 0x01 comes back after 51 doublings, and each doubling depends on the constant alone. -/
theorem periodic_doubledOne : Function.Periodic doubledOne 51 := by
  intro n
  induction n with
  | zero => exact doubledOne_51
  | succ n ih =>
    calc doubledOne (n + 1 + 51) = xtime (doubledOne (n + 51)) := by rw [Nat.add_right_comm, doubledOne]
      _ = xtime (doubledOne n) := by rw [ih]

theorem rc_add_51 {j : Nat} (h : 1 ≤ j) : rc (j + 51) = rc j := by
  obtain ⟨n, rfl⟩ := Nat.exists_eq_add_of_le' h
  exact periodic_doubledOne n

theorem rc_51 : rc 51 = 0x8d := by decide +kernel

/-- The last call RCON can name is whole periods after call 51. -/
theorem rc_255_eq_rc_51 : rc 255 = rc 51 := (periodic_doubledOne.map_mod_nat 254).symm

/-- The word `rcon(j)` as a byte string, its constant leading (R54, R104). -/
@[simp] theorem wordBytes_rcon (j : Nat) : wordBytes (rcon j) = [rc j, 0, 0, 0] := wordBytes_wordOfBytes ..

theorem exec_rcon_of_ne_zero {j : Byte} (h : j ≠ 0) (s : State) :
    exec (.rcon j) s = .next (s.answer (.ok [rc j.toNat, 0, 0, 0])) := by
  rw [exec, execRcon, if_neg h, wordBytes_rcon, respond]

/-- There is no zeroth call (R105). -/
theorem exec_rcon_zero (s : State) : exec (.rcon 0) s = .next (s.answer (.error .illegalCommand)) := rfl

/-- Settles O23: the constant's recursion gives its period, and RCON answers its word or refuses the zeroth call. -/
theorem roundConstants : Obligations.RoundConstants :=
  ⟨⟨rfl, fun _ => rc_eq_xtime⟩, by decide, fun _ h => ⟨rc_add_51 h, rfl⟩, rc_add_51 le_rfl, rc_51,
    rc_255_eq_rc_51.trans rc_51, fun _ s h => exec_rcon_of_ne_zero h s, exec_rcon_zero⟩

end Sys2Proof.Machine
end

section
/-! PROOFS. SubBytes, ShiftRows and their inverses, with the commands SUBB, ISUBB, SHROWS and ISHROWS
(43_round_transform.md R130, R131, R134). -/

namespace Sys2Proof.Machine

/-- The inverse table undoes the table (R46). -/
@[simp] theorem isbox_sbox (a : Byte) : isbox (sbox a) = a := by
  revert a
  decide

/-- The table undoes the inverse table (R46). -/
@[simp] theorem sbox_isbox (a : Byte) : sbox (isbox a) = a := by
  revert a
  decide

@[simp] theorem invSubBytes_subBytes (S : Matrix) : invSubBytes (subBytes S) = S :=
  matrix_ext fun r c => by rw [cell_invSubBytes, cell_subBytes, isbox_sbox]

@[simp] theorem subBytes_invSubBytes (S : Matrix) : subBytes (invSubBytes S) = S :=
  matrix_ext fun r c => by rw [cell_subBytes, cell_invSubBytes, sbox_isbox]

/-- An operation that takes each cell through `g` where it stands takes each byte of the block through `g`. -/
theorem onBlock_eq_map {f : Matrix → Matrix} {g : Byte → Byte} (hf : ∀ S r c, cell (f S) r c = g (cell S r c))
    (b : Block) : onBlock f b = b.map g := by
  ext1 k hk
  rw [onBlock, getElem_store _ _ hk, hf, ← getElem_store _ _ hk, store_load, Vector.getElem_map]

/-- The bytes such an operation answers for a 16-byte string. -/
theorem blockBytes_onBlock_eq_map {f : Matrix → Matrix} {g : Byte → Byte}
    (hf : ∀ S r c, cell (f S) r c = g (cell S r c)) {data : List Byte} (h : data.length = 16) :
    blockBytes (onBlock f (blockOfBytes data)) = data.map g :=
  calc blockBytes (onBlock f (blockOfBytes data)) = blockBytes ((blockOfBytes data).map g) := by
        rw [onBlock_eq_map hf]
    _ = (blockBytes (blockOfBytes data)).map g := Vector.toList_map
    _ = data.map g := by rw [blockBytes_blockOfBytes h]

theorem exec_subb_of_length {data : List Byte} (h : data.length = 16) (s : State) :
    exec (.subb data) s = .next (s.answer (.ok (data.map sbox))) := by
  rw [exec, execSubb, withBlock_of_length h, respond, blockBytes_onBlock_eq_map cell_subBytes h]

theorem exec_isubb_of_length {data : List Byte} (h : data.length = 16) (s : State) :
    exec (.isubb data) s = .next (s.answer (.ok (data.map isbox))) := by
  rw [exec, execIsubb, withBlock_of_length h, respond, blockBytes_onBlock_eq_map cell_invSubBytes h]

/-- Settles O27: the lookups act on each cell alone, and the two tables are inverse. -/
theorem subBytesAndItsInverse : Obligations.SubBytesAndItsInverse :=
  ⟨fun S r c => ⟨cell_subBytes S r c, cell_invSubBytes S r c⟩,
    fun S => ⟨invSubBytes_subBytes S, subBytes_invSubBytes S⟩,
    fun _ s h => ⟨exec_subb_of_length h s, exec_isubb_of_length h s⟩⟩

@[simp] theorem invShiftRows_shiftRows (S : Matrix) : invShiftRows (shiftRows S) = S :=
  matrix_ext fun r c => by rw [cell_invShiftRows, cell_shiftRows, sub_add_cancel]

@[simp] theorem shiftRows_invShiftRows (S : Matrix) : shiftRows (invShiftRows S) = S :=
  matrix_ext fun r c => by rw [cell_shiftRows, cell_invShiftRows, add_sub_cancel_right]

/-- Two rows with the same cells are equal. -/
theorem row_ext {S T : Matrix} {r : Fin 4} (h : ∀ c, cell S r c = cell T r c) : S[r] = T[r] :=
  Vector.ext fun c hc => h ⟨c, hc⟩

theorem shiftRows_row_zero (S : Matrix) : (shiftRows S)[0] = S[0] :=
  row_ext (r := 0) fun c => by rw [cell_shiftRows, add_zero]

theorem invShiftRows_row_zero (S : Matrix) : (invShiftRows S)[0] = S[0] :=
  row_ext (r := 0) fun c => by rw [cell_invShiftRows, sub_zero]

/-- Two places to the left and two to the right are the same place, modulo 4. -/
theorem shiftRows_row_two (S : Matrix) : (shiftRows S)[2] = (invShiftRows S)[2] :=
  row_ext (r := 2) fun c => by
    have hc : c + 2 = c - 2 := by revert c; decide
    rw [cell_shiftRows, cell_invShiftRows, hc]

section
variable (b0 b1 b2 b3 b4 b5 b6 b7 b8 b9 b10 b11 b12 b13 b14 b15 : Byte) (s : State)

/-- R134's byte permutation of the forward shift. -/
theorem exec_shrows_bytes :
    exec (.shrows [b0, b1, b2, b3, b4, b5, b6, b7, b8, b9, b10, b11, b12, b13, b14, b15]) s =
      .next (s.answer (.ok [b0, b5, b10, b15, b4, b9, b14, b3, b8, b13, b2, b7, b12, b1, b6, b11])) := by
  rw [exec, execShrows, withBlock_of_length rfl, respond, onBlock, blockBytes_store]
  simp only [cell_shiftRows, cell_load_blockOfBytes]
  rfl

/-- R134's byte permutation of the inverse shift. -/
theorem exec_ishrows_bytes :
    exec (.ishrows [b0, b1, b2, b3, b4, b5, b6, b7, b8, b9, b10, b11, b12, b13, b14, b15]) s =
      .next (s.answer (.ok [b0, b13, b10, b7, b4, b1, b14, b11, b8, b5, b2, b15, b12, b9, b6, b3])) := by
  rw [exec, execIshrows, withBlock_of_length rfl, respond, onBlock, blockBytes_store]
  simp only [cell_invShiftRows, cell_load_blockOfBytes]
  rfl

end

/-- Settles O28: columns are counted modulo 4, so that the shifts are inverse and agree on rows 0 and 2. -/
theorem shiftRowsAndItsInverse : Obligations.ShiftRowsAndItsInverse :=
  ⟨fun S r c => ⟨cell_shiftRows S r c, cell_invShiftRows S r c⟩,
    fun S => ⟨invShiftRows_shiftRows S, shiftRows_invShiftRows S, shiftRows_row_zero S, invShiftRows_row_zero S,
      shiftRows_row_two S⟩,
    fun b0 b1 b2 b3 b4 b5 b6 b7 b8 b9 b10 b11 b12 b13 b14 b15 s =>
      ⟨exec_shrows_bytes b0 b1 b2 b3 b4 b5 b6 b7 b8 b9 b10 b11 b12 b13 b14 b15 s,
        exec_ishrows_bytes b0 b1 b2 b3 b4 b5 b6 b7 b8 b9 b10 b11 b12 b13 b14 b15 s⟩⟩

end Sys2Proof.Machine
end

section
/-! PROOFS. The round structure of the cipher and the commands ENCBLK and DECBLK (44_cipher_engine.md R150 to R153). -/

namespace Sys2Proof.Machine

/-- The round keys of encryption's loop are used in ascending order, each once (R150). -/
theorem encryptRounds_eq_foldl (w : Vector Word 60) (n : Nat) (S : Matrix) :
    encryptRounds w n S = (List.range' 1 n).foldl (fun S rnd => fullRound w rnd S) S := by
  induction n with
  | zero => rfl
  | succ n ih => rw [encryptRounds, ih, List.range'_1_concat, List.foldl_concat, Nat.add_comm]

/-- The round keys of decryption's loop are used in descending order, each once (R151). -/
theorem decryptRounds_eq_foldl (w : Vector Word 60) (n : Nat) (S : Matrix) :
    decryptRounds w n S = (List.range' 1 n).reverse.foldl (fun S rnd => undoRound w rnd S) S := by
  induction n generalizing S with
  | zero => rfl
  | succ n ih => rw [decryptRounds, ih, List.range'_1_concat, List.reverse_concat, List.foldl_cons, Nat.add_comm]

/-- With a schedule, ENCBLK of a block answers its encryption (R152). -/
theorem exec_encblk_of_length {data : List Byte} {s : State} (h : data.length = 16) (hks : s.ksValid = true) :
    exec (.encblk data) s = .next (s.answer (.ok (blockBytes (encryptUnder s (blockOfBytes data))))) := by
  rw [exec, execEncblk, withBlock_of_length h, needSchedule_of_valid hks, respond]

/-- With a schedule, DECBLK of a block answers its decryption (R153). -/
theorem exec_decblk_of_length {data : List Byte} {s : State} (h : data.length = 16) (hks : s.ksValid = true) :
    exec (.decblk data) s = .next (s.answer (.ok (blockBytes (decryptUnder s (blockOfBytes data))))) := by
  rw [exec, execDecblk, withBlock_of_length h, needSchedule_of_valid hks, respond]

/-- Settles O38: each loop is a fold of its round over the round numbers, ascending or descending. -/
theorem cipherRunsTheRounds : Obligations.CipherRunsTheRounds := by
  rintro data s nr hlen hks rfl
  constructor
  · rw [exec_encblk_of_length hlen hks, encryptUnder, encrypt, encryptRounds_eq_foldl]
    rfl
  · rw [exec_decblk_of_length hlen hks, decryptUnder, decrypt, decryptRounds_eq_foldl]
    rfl

end Sys2Proof.Machine
end

section
/-! PROOFS. Padding and unpadding, and the command PAD (45_padding_cbc.md R160 to R162). -/

namespace Sys2Proof.Machine

/-- With a tail of at most 15 bytes, PAD answers the padded tail (R162). -/
theorem exec_pad_of_length {t : List Byte} (h : t.length ≤ 15) (s : State) :
    exec (.pad t) s = .next (s.answer (.ok (padFinal t))) := by
  rw [exec, execPad, withTail_of_length h, respond]

/-- What follows a message's full blocks is its length modulo 16. -/
theorem length_drop_fullBlocks (msg : List Byte) : (msg.drop (16 * (msg.length / 16))).length = msg.length % 16 := by
  rw [List.length_drop]
  omega

/-- A padded message is its full blocks and the padded tail (R160). -/
theorem padMessage_eq_append_padFinal (msg : List Byte) :
    padMessage msg = msg.take (16 * (msg.length / 16)) ++ padFinal (msg.drop (16 * (msg.length / 16))) := by
  rw [padFinal, length_drop_fullBlocks, ← List.append_assoc, List.take_append_drop, padMessage]

theorem length_padMessage (msg : List Byte) : (padMessage msg).length = 16 * (msg.length / 16 + 1) := by
  rw [padMessage, List.length_append, List.length_replicate]
  omega

/-- Settles O33: the bytes after the full blocks are a tail of at most 15, which padding makes one more block. -/
theorem paddingAlwaysAppends : Obligations.PaddingAlwaysAppends :=
  ⟨fun _ s h => ⟨exec_pad_of_length h s, length_padFinal h⟩,
    fun msg => ⟨length_padMessage msg, by rw [length_padMessage]; omega, padMessage_eq_append_padFinal msg⟩⟩

/-- The comparison of `UNPAD_STRICT` looks at the bytes of the block from byte `n` on (R161). -/
theorem all_drop_blockBytes_iff {d : Block} {n : Nat} {x : Byte} :
    ((blockBytes d).drop n).all (· == x) = true ↔ ∀ k : Fin 16, n ≤ k.val → d[k] = x := by
  simp only [List.all_eq_true, beq_iff_eq, List.mem_drop_iff_getElem, length_blockBytes]
  constructor
  · intro h k hk
    exact h d[k] ⟨k.val - n, by omega, by simp [blockBytes, Nat.add_sub_cancel' hk]⟩
  · rintro h _ ⟨i, hi, rfl⟩
    exact h ⟨n + i, by omega⟩ (Nat.le_add_right n i)

section
variable {d : Block}

/-- A count of 0 or above 16 (R161). -/
theorem unpadFinal_of_illegal_count (strict : Bool) (h : d[15].toNat = 0 ∨ d[15].toNat > 16) :
    unpadFinal strict d = .error .invalidPadding := if_pos h

/-- With a count of 1 to 16, what remains to unpadding is the comparison, if it is asked for (R161). -/
theorem unpadFinal_of_legal_count (strict : Bool) (h1 : 1 ≤ d[15].toNat) (h16 : d[15].toNat ≤ 16) :
    unpadFinal strict d =
      if strict = true ∧ ¬ ∀ k : Fin 16, 16 - d[15].toNat ≤ k.val → d[k] = d[15] then .error .invalidPadding
      else .ok ((blockBytes d).take (16 - d[15].toNat)) := by
  rw [unpadFinal, if_neg (by omega)]
  simp only [← all_drop_blockBytes_iff, Bool.and_eq_true, Bool.not_eq_true', Bool.not_eq_true]

/-- Without the comparison no byte but the last is examined (R161). -/
theorem unpadFinal_false_of_legal_count (h1 : 1 ≤ d[15].toNat) (h16 : d[15].toNat ≤ 16) :
    unpadFinal false d = .ok ((blockBytes d).take (16 - d[15].toNat)) := by
  rw [unpadFinal_of_legal_count false h1 h16, if_neg (by simp)]

/-- Under `UNPAD_STRICT` one pad byte that is not the count is enough for InvalidPadding (R161). -/
theorem unpadFinal_true_of_wrong_padByte (h1 : 1 ≤ d[15].toNat) (h16 : d[15].toNat ≤ 16)
    (hpad : ∃ k : Fin 16, 16 - d[15].toNat ≤ k.val ∧ d[k] ≠ d[15]) :
    unpadFinal true d = .error .invalidPadding := by
  obtain ⟨k, hk, hne⟩ := hpad
  rw [unpadFinal_of_legal_count true h1 h16, if_pos ⟨rfl, fun h => hne (h k hk)⟩]

/-- Pad bytes that are all the count pass the comparison, if it is made (R161). -/
theorem unpadFinal_of_padBytes (strict : Bool) (h1 : 1 ≤ d[15].toNat) (h16 : d[15].toNat ≤ 16)
    (hpad : ∀ k : Fin 16, 16 - d[15].toNat ≤ k.val → d[k] = d[15]) :
    unpadFinal strict d = .ok ((blockBytes d).take (16 - d[15].toNat)) := by
  rw [unpadFinal_of_legal_count strict h1 h16, if_neg fun h => h.2 hpad]

end

/-- Unpadding a byte string goes on from the outcome for its last block (R161). (`delta`, since the definition's
equation lemma is too costly to generate.) -/
theorem unpadMessage_eq_map (strict : Bool) (m : List Byte) :
    unpadMessage strict m =
      (unpadFinal strict (blockOfBytes (m.drop (m.length - 16)))).map (m.take (m.length - 16) ++ ·) := by
  delta unpadMessage
  cases unpadFinal strict (blockOfBytes (m.drop (m.length - 16))) with
  | ok t => rfl
  | error e => rfl

/-- A byte string is unpadded in its last block, and what stands before it is kept (R161). -/
theorem unpadMessage_append_blockBytes (strict : Bool) (m : List Byte) (d : Block) :
    unpadMessage strict (m ++ blockBytes d) = (unpadFinal strict d).map (m ++ ·) := by
  have hlen : (m ++ blockBytes d).length - 16 = m.length := by simp
  rw [unpadMessage_eq_map, hlen, List.drop_left, List.take_left, blockOfBytes_blockBytes]

/-- Every byte of a padded tail's block from the tail's end on is the pad count (R160). -/
theorem getElem_blockOfBytes_padFinal {t : List Byte} {k : Nat} (hk : t.length ≤ k) (hk16 : k < 16) :
    (blockOfBytes (padFinal t))[k] = byteOfNat (16 - t.length) := by
  rw [getElem_blockOfBytes, padFinal, List.getD_append_right _ _ _ _ hk, List.getD_replicate _ (by omega)]

/-- Unpadding undoes padding of a tail, whichever value `UNPAD_STRICT` has (R161). -/
theorem unpadFinal_padFinal (strict : Bool) {t : List Byte} (h : t.length ≤ 15) :
    unpadFinal strict (blockOfBytes (padFinal t)) = .ok t := by
  have hlast : (blockOfBytes (padFinal t))[15] = byteOfNat (16 - t.length) :=
    getElem_blockOfBytes_padFinal h (by decide)
  have hcount : (blockOfBytes (padFinal t))[15].toNat = 16 - t.length := by
    rw [hlast, byteOfNat, BitVec.toNat_ofNat]
    omega
  have hkept : 16 - (16 - t.length) = t.length := by omega
  rw [unpadFinal_of_padBytes strict (by omega) (by omega) fun k hk =>
      (getElem_blockOfBytes_padFinal (by omega) k.isLt).trans hlast.symm,
    blockBytes_blockOfBytes (length_padFinal h), hcount, hkept, padFinal, List.take_left]

/-- Unpadding undoes padding of a message, whichever value `UNPAD_STRICT` has (R161). -/
theorem unpadMessage_padMessage (strict : Bool) (msg : List Byte) :
    unpadMessage strict (padMessage msg) = .ok msg := by
  have htail : (msg.drop (16 * (msg.length / 16))).length ≤ 15 := by
    rw [length_drop_fullBlocks]
    omega
  rw [padMessage_eq_append_padFinal, ← blockBytes_blockOfBytes (length_padFinal htail),
    unpadMessage_append_blockBytes, unpadFinal_padFinal strict htail, Except.map, List.take_append_drop]

/-- Settles O34: the count alone decides which bytes go, the comparison is of those bytes only, and a padded tail has
its count in each of them. -/
theorem unpaddingReadsTheLastByte : Obligations.UnpaddingReadsTheLastByte := by
  refine ⟨fun _ strict => unpadFinal_of_illegal_count strict,
    fun _ h1 h16 => ⟨unpadFinal_false_of_legal_count h1 h16, unpadFinal_true_of_wrong_padByte h1 h16,
      unpadFinal_of_padBytes true h1 h16⟩,
    fun m t d strict _ => ?_, fun _ strict => unpadFinal_padFinal strict,
    fun msg strict => unpadMessage_padMessage strict msg⟩
  rw [unpadMessage_append_blockBytes]
  exact ⟨congrArg (Except.map (m ++ ·)), fun e => congrArg (Except.map (m ++ ·))⟩

end Sys2Proof.Machine
end

section
/-! PROOFS. The block commands of the CBC chaining controller, CBCENCB, CBCENCF and CBCDECB
(45_padding_cbc.md R164, R166 to R168). -/

namespace Sys2Proof.Machine

section
variable {data : List Byte} {s : State} (hks : s.ksValid = true) (hcv : s.cvValid = true)
include hks hcv

/-- The ciphertext block CBCENCB answers is the next chaining value (R166). -/
theorem exec_cbcencb_of_length (h : data.length = 16) :
    exec (.cbcencb data) s =
      .next ((s.setCv (cbcEncryptBlock s (blockOfBytes data))).answer
        (.ok (blockBytes (cbcEncryptBlock s (blockOfBytes data))))) := by
  rw [exec, execCbcencb, withBlock_of_length h, needCbc_of_valid hks hcv, respond]

/-- CBCENCF chains the padded tail as any block (R167). -/
theorem exec_cbcencf_of_length (h : data.length ≤ 15) :
    exec (.cbcencf data) s =
      .next ((s.setCv (cbcEncryptBlock s (blockOfBytes (padFinal data)))).answer
        (.ok (blockBytes (cbcEncryptBlock s (blockOfBytes (padFinal data)))))) := by
  rw [exec, execCbcencf, withTail_of_length h, needCbc_of_valid hks hcv, respond]

/-- CBCDECB uses the old chaining value and keeps the incoming block as the next one (R168). -/
theorem exec_cbcdecb_of_length (h : data.length = 16) :
    exec (.cbcdecb data) s =
      .next ((s.setCv (blockOfBytes data)).answer (.ok (blockBytes (cbcDecryptBlock s (blockOfBytes data))))) := by
  rw [exec, execCbcdecb, withBlock_of_length h, needCbc_of_valid hks hcv, respond]

end

/-- Settles O42: with both flags set each command answers its block operation, whose round count is NK + 6. -/
theorem cbcBlocksChain : Obligations.CbcBlocksChain := fun s hks hcv =>
  ⟨fun data h => ⟨⟨cbcEncryptBlock s (blockOfBytes data), rfl, exec_cbcencb_of_length hks hcv h⟩,
      exec_cbcdecb_of_length hks hcv h⟩,
    fun t h => ⟨cbcEncryptBlock s (blockOfBytes (padFinal t)), rfl, exec_cbcencf_of_length hks hcv h⟩⟩

end Sys2Proof.Machine
end

section
/-! PROOFS. The counter increment unit and the command INC32 (46_ctr.md R180, R181). -/

namespace Sys2Proof.Machine

/-- The field's bytes, counted from byte 12 (R180). -/
theorem counterField_eq (x : Block) : counterField x = wordOfBytes x[12 + 0] x[12 + 1] x[12 + 2] x[12 + 3] := rfl

theorem getD_wordBytes (w : Word) {j : Nat} (h : j < 4) : (wordBytes w).getD j 0 = wordByte w j := by
  interval_cases j <;> rfl

/-- Bytes 0 to 11 are no part of the increment (R180). -/
theorem getElem_inc32_of_lt (x : Block) {k : Nat} (h : k < 12) : (inc32 x)[k] = x[k] := by
  rw [inc32, Vector.getElem_ofFn, if_pos h]
  rfl

/-- Bytes 12 to 15 are those of the incremented field, its leading byte first (R180). -/
theorem getElem_inc32_add (x : Block) {j : Nat} (h : 12 + j < 16) :
    (inc32 x)[12 + j] = wordByte (counterField x + 1) j := by
  rw [inc32, Vector.getElem_ofFn, if_neg (by simp), Nat.add_sub_cancel_left]

/-- The increment of a block is the increment of its counter field, as a 32-bit word (R180). -/
@[simp] theorem counterField_inc32 (x : Block) : counterField (inc32 x) = counterField x + 1 := by
  simp only [counterField_eq (inc32 x), getElem_inc32_add, wordOfBytes_wordByte]

/-- The field as a number, big-endian (R53, R180). -/
theorem toNat_counterField (x : Block) : (counterField x).toNat =
    x[12].toNat * 2 ^ 24 + x[13].toNat * 2 ^ 16 + x[14].toNat * 2 ^ 8 + x[15].toNat :=
  toNat_wordOfBytes ..

section
variable {upper : List Byte} (h : upper.length = 12) (v : Word)
include h

theorem getElem_blockOfBytes_append_of_lt {k : Nat} (hk : k < 12) :
    (blockOfBytes (upper ++ wordBytes v))[k] = upper.getD k 0 := by
  rw [getElem_blockOfBytes, List.getD_append _ _ _ _ (by omega)]

theorem getElem_blockOfBytes_append_add {j : Nat} (hj : 12 + j < 16) :
    (blockOfBytes (upper ++ wordBytes v))[12 + j] = wordByte v j := by
  rw [getElem_blockOfBytes, List.getD_append_right _ _ _ _ (by omega), h, Nat.add_sub_cancel_left]
  exact getD_wordBytes v (by omega)

/-- A word after 12 bytes is the counter field of their block. -/
theorem counterField_blockOfBytes_append : counterField (blockOfBytes (upper ++ wordBytes v)) = v := by
  simp only [counterField_eq, getElem_blockOfBytes_append_add h, wordOfBytes_wordByte]

/-- The increment of 12 bytes and a word is the same 12 bytes and the word plus 1. -/
theorem inc32_blockOfBytes_append :
    inc32 (blockOfBytes (upper ++ wordBytes v)) = blockOfBytes (upper ++ wordBytes (v + 1)) := by
  ext1 k hk
  by_cases hlt : k < 12
  · rw [getElem_inc32_of_lt _ hlt, getElem_blockOfBytes_append_of_lt h v hlt,
      getElem_blockOfBytes_append_of_lt h (v + 1) hlt]
  · obtain ⟨j, rfl⟩ := Nat.exists_eq_add_of_le (Nat.le_of_not_lt hlt)
    rw [getElem_inc32_add, counterField_blockOfBytes_append h, getElem_blockOfBytes_append_add h]

/-- INC32 of 12 bytes and a word answers the same 12 bytes and the word plus 1 (R181). -/
theorem exec_inc32_append (s : State) :
    exec (.inc32 (upper ++ wordBytes v)) s = .next (s.answer (.ok (upper ++ wordBytes (v + 1)))) := by
  have hlen : ∀ u : Word, (upper ++ wordBytes u).length = 16 := by simp [h]
  rw [exec, execInc32, withBlock_of_length (hlen v), respond, inc32_blockOfBytes_append h,
    blockBytes_blockOfBytes (hlen (v + 1))]

/-- The carry out of the word ff ff ff ff is lost: it does not reach byte 11 (R180). -/
theorem exec_inc32_append_ffffffff (s : State) :
    exec (.inc32 (upper ++ [0xff, 0xff, 0xff, 0xff])) s =
      .next (s.answer (.ok (upper ++ [0x00, 0x00, 0x00, 0x00]))) := by
  have hmax : wordBytes 0xffffffff = [0xff, 0xff, 0xff, 0xff] := by decide
  have hwrap : wordBytes (0xffffffff + 1) = [0x00, 0x00, 0x00, 0x00] := by decide
  rw [← hmax, exec_inc32_append h, hwrap]

end

/-- Settles O32: the increment is the addition of 1 to a 32-bit word, which is modulo 2^32, and the other bytes of the
block are no part of it. -/
theorem counterIncrement : Obligations.CounterIncrement :=
  ⟨fun x => ⟨by rw [counterField_inc32, BitVec.toNat_add]; rfl, toNat_counterField x,
      fun _ h => getElem_inc32_of_lt x h⟩,
    fun _ v s h => exec_inc32_append h v s, fun _ s h => exec_inc32_append_ffffffff h s⟩

end Sys2Proof.Machine
end

section
/-! PROOFS. The block commands of the CTR keystream engine, CTRENCB, CTRENCF and CTRDECB
(46_ctr.md R183 to R185, R189). -/

namespace Sys2Proof.Machine

/-- The bytes of an XOR of blocks are the XOR of their bytes (R14). -/
theorem blockBytes_xorBlock (x y : Block) : blockBytes (xorBlock x y) = xorBytes (blockBytes x) (blockBytes y) := by
  apply List.ext_getElem
  · simp [xorBytes]
  · intro i h1 h2
    simp [blockBytes, xorBytes]

/-- One CTR block on a 16-byte string is its XOR with the cipher of the counter (R189). -/
theorem blockBytes_ctrBlock_blockOfBytes (s : State) {data : List Byte} (h : data.length = 16) :
    blockBytes (ctrBlock s (blockOfBytes data)) = xorBytes data (blockBytes (encryptUnder s s.cb)) := by
  rw [ctrBlock, blockBytes_xorBlock, blockBytes_blockOfBytes h]

section
variable {data : List Byte} {s : State} (hks : s.ksValid = true) (hcb : s.cbValid = true)
include hks hcb

/-- CTRENCB uses the counter as it stands and then increments it (R183). -/
theorem exec_ctrencb_of_length (h : data.length = 16) :
    exec (.ctrencb data) s =
      .next ((s.setCb (inc32 s.cb)).answer (.ok (xorBytes data (blockBytes (encryptUnder s s.cb))))) := by
  rw [exec, execCtrencb, withBlock_of_length h, needCtr_of_valid hks hcb, respond, blockBytes_ctrBlock_blockOfBytes s h]

/-- CTRDECB runs the forward cipher, as CTRENCB does (R184). -/
theorem exec_ctrdecb_of_length (h : data.length = 16) :
    exec (.ctrdecb data) s =
      .next ((s.setCb (inc32 s.cb)).answer (.ok (xorBytes data (blockBytes (encryptUnder s s.cb))))) := by
  rw [exec, execCtrdecb, withBlock_of_length h, needCtr_of_valid hks hcb, respond, blockBytes_ctrBlock_blockOfBytes s h]

/-- CTRENCF takes the padded tail as any block (R185). -/
theorem exec_ctrencf_of_length (h : data.length ≤ 15) :
    exec (.ctrencf data) s =
      .next ((s.setCb (inc32 s.cb)).answer
        (.ok (xorBytes (padFinal data) (blockBytes (encryptUnder s s.cb))))) := by
  rw [exec, execCtrencf, withTail_of_length h, needCtr_of_valid hks hcb, respond,
    blockBytes_ctrBlock_blockOfBytes s (length_padFinal h)]

end

/-- Settles O45: with both flags set each command answers its operand XOR one keystream block, whose round count is
NK + 6, and only the next counter is written. -/
theorem ctrBlocksUseTheCounter : Obligations.CtrBlocksUseTheCounter := by
  rintro s _ hks hcb rfl
  exact ⟨fun _ h => ⟨exec_ctrencb_of_length hks hcb h, exec_ctrdecb_of_length hks hcb h⟩,
    fun _ h => exec_ctrencf_of_length hks hcb h⟩

end Sys2Proof.Machine
end

section
/-! PROOFS. The order of the checks, and that an error writes nothing (60_exceptions.md R202 to R208). -/

namespace Sys2Proof.Machine

/-- How a command found in state `s` may end, `expected` being the error of R208's checks and `unpadded` the block
check 6 looks at: it raises the expected error; with none expected it answers OK, its writes having left the responses
alone; or it still refuses the padding of a block it unpads, which `UNPAD_STRICT` decides. -/
inductive Reports (s : State) (unpadded : Option Block) : (expected : Option CmdError) → Result → Prop
  | raised (e : CmdError) : Reports s unpadded (some e) (raise e s)
  | answered {u : State} (payload : List Byte) (hout : u.outbox = s.outbox := by simp) :
    Reports s unpadded none (respond payload u)
  | refusedPadding (hblock : unpadded ≠ none) : Reports s unpadded none (raise .invalidPadding s)

section
variable {s : State} {unpadded : Option Block} {later : Option CmdError}

/-- A check before the rest of a command (R208). -/
theorem Reports.of_check {check : Prop} [Decidable check] {e : CmdError} {body : Result}
    (h : Reports s unpadded later body) :
    Reports s unpadded (if check then some e else later) (if check then raise e s else body) := by
  split
  · exact .raised e
  · exact h

/-- The length of a block operand comes before the rest of the command (R203). -/
theorem Reports.of_withBlock {data : List Byte} {body : Block → Result}
    (h : Reports s unpadded later (body (blockOfBytes data))) :
    Reports s unpadded (if data.length ≠ 16 then some .invalidBlockLength else later) (withBlock data s body) := by
  split
  · next hlen => exact withBlock_of_length_ne hlen ▸ .raised _
  · next hlen => exact withBlock_of_length (not_not.1 hlen) ▸ h

/-- The length of a tail operand comes before the rest of the command (R203). -/
theorem Reports.of_withTail {data : List Byte} {body : List Byte → Result}
    (h : Reports s unpadded later (body data)) :
    Reports s unpadded (if data.length > 15 then some .invalidBlockLength else later) (withTail data s body) := by
  split
  · next hlen => exact withTail_of_length_gt hlen ▸ .raised _
  · next hlen => exact withTail_of_length (Nat.le_of_not_lt hlen) ▸ h

/-- The length of a key operand comes before the rest of the command (R202). -/
theorem Reports.of_withKey {key : List Byte} {body : KeyLen → Result} (h : ∀ k, Reports s unpadded later (body k)) :
    Reports s unpadded (if key.length ∉ [16, 24, 32] then some .invalidKeyLength else later)
      (withKey key s body) := by
  have hnone : key.length ∉ [16, 24, 32] ↔ keyLenOf key.length = none := by simp [keyLenOf_eq_none]
  simp only [hnone, withKey]
  cases keyLenOf key.length with
  | none => exact .raised _
  | some k => exact h k

theorem Reports.of_needSchedule {body : Result} (h : Reports s unpadded later body) :
    Reports s unpadded (if s.ksValid = false then some .notReady else later) (needSchedule s body) := h.of_check

theorem Reports.of_needCv {body : Result} (h : Reports s unpadded later body) :
    Reports s unpadded (if s.cvValid = false then some .notReady else later) (needCv s body) := h.of_check

theorem Reports.of_needCb {body : Result} (h : Reports s unpadded later body) :
    Reports s unpadded (if s.cbValid = false then some .notReady else later) (needCb s body) := h.of_check

theorem Reports.of_needCbc {body : Result} (h : Reports s unpadded later body) :
    Reports s unpadded (if s.ksValid = false ∨ s.cvValid = false then some .notReady else later) (needCbc s body) :=
  h.of_check

theorem Reports.of_needCtr {body : Result} (h : Reports s unpadded later body) :
    Reports s unpadded (if s.ksValid = false ∨ s.cbValid = false then some .notReady else later) (needCtr s body) :=
  h.of_check

/-- A last byte of 0 or above 16 is refused in every block that is unpadded, and of the others those that the
comparison of `UNPAD_STRICT` refuses (R161, R207). -/
theorem Reports.of_respondUnpadded {c : State} (strict : Bool) (d : Block) (hout : c.outbox = s.outbox := by simp) :
    Reports s (some d) (if d[15].toNat = 0 ∨ d[15].toNat > 16 then some .invalidPadding else none)
      (respondUnpadded strict d c s) := by
  unfold respondUnpadded
  split
  · next hcount => exact unpadFinal_of_illegal_count strict hcount ▸ .raised _
  · split
    · exact .answered _ hout
    · next e he => exact unpadFinal_error he ▸ .refusedPadding nofun

end

/-- R208's checks 3 to 6 as one chain, check 3 taken apart by the kind of operand. -/
theorem expectedError_eq_ite (i : Instr) (s : State) :
    expectedError i s =
      if ∃ data ∈ blockOperand i, data.length ≠ 16 then some .invalidBlockLength
      else if ∃ data ∈ tailOperand i, data.length > 15 then some .invalidBlockLength
      else if ∃ key ∈ keyOperand i, key.length ∉ [16, 24, 32] then some .invalidKeyLength
      else if missingFlag i s then some .notReady
      else if operandOutOfRange i s then some .illegalCommand
      else if badPadding i s then some .invalidPadding
      else none := by
  unfold expectedError lengthError
  split_ifs <;> rfl

/-- Every command makes its checks in the order of R208 before it writes anything, and reports accordingly. -/
theorem exec_reports (i : Instr) (s : State) : Reports s (unpaddedBlock i s) (expectedError i s) (exec i s) := by
  rw [expectedError_eq_ite]
  cases i with simp only [blockOperand, tailOperand, keyOperand, missingFlag, usesSchedule, usesCv, usesCb,
      operandOutOfRange, badPadding, unpaddedBlock, exec, Option.mem_def, Option.some.injEq, exists_eq_left',
      reduceCtorEq, false_and, exists_false, if_false, Bool.true_and, Bool.false_and, Bool.or_false,
      Bool.or_eq_true, false_or, Bool.not_eq_true', beq_iff_eq, decide_eq_true_eq, Bool.false_eq_true]
  | gfmul a b => exact .answered _
  | sbox a => exact .answered _
  | isbox a => exact .answered _
  | rotw w => exact .answered _
  | subw w => exact .answered _
  | rcon j => exact .of_check (.answered _)
  | subb data => exact .of_withBlock (.answered _)
  | isubb data => exact .of_withBlock (.answered _)
  | shrows data => exact .of_withBlock (.answered _)
  | ishrows data => exact .of_withBlock (.answered _)
  | mixcol data => exact .of_withBlock (.answered _)
  | imixcol data => exact .of_withBlock (.answered _)
  | addrk rk data => exact .of_withBlock (.of_needSchedule (.of_check (.answered _)))
  | inc32 data => exact .of_withBlock (.answered _)
  | pad data => exact .of_withTail (.answered _)
  | unpad data => exact .of_withBlock (.of_respondUnpadded _ _)
  | keyexp key => exact .of_withKey fun k => .answered _
  | rdrk index => exact .of_needSchedule (.of_check (.answered _))
  | encblk data => exact .of_withBlock (.of_needSchedule (.answered _))
  | decblk data => exact .of_withBlock (.of_needSchedule (.answered _))
  | cbcinit iv => exact .of_withBlock (.answered _)
  | cbcencb data => exact .of_withBlock (.of_needCbc (.answered _))
  | cbcencf data => exact .of_withTail (.of_needCbc (.answered _))
  | cbcdecb data => exact .of_withBlock (.of_needCbc (.answered _))
  | cbcdecf data => exact .of_withBlock (.of_needCbc (.of_respondUnpadded _ _))
  | rdcv => exact .of_needCv (.answered _)
  | ctrinit ctr => exact .of_withBlock (.answered _)
  | ctrencb data => exact .of_withBlock (.of_needCtr (.answered _))
  | ctrencf data => exact .of_withTail (.of_needCtr (.answered _))
  | ctrdecb data => exact .of_withBlock (.of_needCtr (.answered _))
  | ctrdecf data => exact .of_withBlock (.of_needCtr (.of_respondUnpadded _ _))
  | rdctr => exact .of_needCb (.answered _)

/-- How a command ends, read off its next state: the responses of R208. -/
theorem Reports.exists_next {s : State} {unpadded : Option Block} {expected : Option CmdError} {result : Result}
    (h : Reports s unpadded expected result) :
    ∃ t, result = .next t ∧
      (∀ e, expected = some e → t.outbox = s.outbox ++ [.error e]) ∧
      (expected = none →
        (∃ p, t.outbox = s.outbox ++ [.ok p]) ∨
          unpadded ≠ none ∧ t.outbox = s.outbox ++ [.error .invalidPadding]) := by
  cases h with
  | raised e =>
    refine ⟨s.answer (.error e), rfl, ?_, nofun⟩
    rintro _ ⟨⟩
    rfl
  | @answered u payload hout =>
    exact ⟨u.answer (.ok payload), rfl, nofun, fun _ => .inl ⟨payload, by rw [State.answer_outbox, hout]⟩⟩
  | refusedPadding hblock => exact ⟨s.answer (.error .invalidPadding), rfl, nofun, fun _ => .inr ⟨hblock, rfl⟩⟩

/-- The response that `raise` sends tells which error was raised, and `raise` changes nothing else (R206). -/
theorem eq_answer_of_raise_eq_next {s t : State} {raised e : CmdError} (h : raise raised s = .next t)
    (hout : t.outbox = s.outbox ++ [.error e]) : t = s.answer (.error e) := by
  obtain rfl := raise_eq_next.1 h
  obtain rfl : raised = e := by simpa using hout
  rfl

/-- Only the two ways to end that raise an error send one (R206). -/
theorem Reports.eq_answer_of_error {s t : State} {unpadded : Option Block} {expected : Option CmdError}
    {result : Result} {e : CmdError} (h : Reports s unpadded expected result) (hnext : result = .next t)
    (hout : t.outbox = s.outbox ++ [.error e]) : t = s.answer (.error e) := by
  cases h with
  | raised _ => exact eq_answer_of_raise_eq_next hnext hout
  | answered payload hkept =>
    obtain rfl := respond_eq_next.1 hnext
    simp [hkept] at hout
  | refusedPadding _ => exact eq_answer_of_raise_eq_next hnext hout

/-- A request that decodes is taken from the channel and executed (R70). -/
theorem step_of_decode_ok {s : State} {req : List Byte} {rest : List HostEvent} {i : Instr}
    (hin : s.inbox = .request req :: rest) (hdec : decode req = .ok i) :
    step s = exec i { s with inbox := rest } := by
  simp only [step, takeEvent, hin, hdec]

/-- Settles O11: framing decides whether a request is a command, and the checks of a command stand in R208's order. -/
theorem errorsInOrderOfPriority : Obligations.ErrorsInOrderOfPriority := by
  refine ⟨fun s req rest hin => ⟨fun hlen => ?_, fun hlen => ?_⟩, fun i s => (exec_reports i s).exists_next⟩
  · exact ⟨_, (framingIsChecked s req rest hin).2 hlen, rfl⟩
  · obtain ⟨i, hdec⟩ := (requiredLength_eq_length_iff req).1 hlen
    exact ⟨i, hdec, step_of_decode_ok hin hdec⟩

/-- Settles O13: every error a command reports is raised in the state the command found. -/
theorem errorWritesNothing : Obligations.ErrorWritesNothing :=
  fun i s _ _ hexec hout => (exec_reports i s).eq_answer_of_error hexec hout

end Sys2Proof.Machine
end

section
/-! PROOFS. The encoder and the decoder are inverse to each other (30_encoding.md R72, R73, R80). -/

namespace Sys2Proof

/-- The opcode alone selects the format the rest of the request is read by (R71, R75). -/
theorem decode_cons_of_shapeOf {op : Byte} {shape : Shape} (hop : shapeOf op = some shape) (operands : List Byte) :
    decode (op :: operands) = readOperands shape operands := by
  simp only [decode, hop]

/-- The four bytes of a word are read back as that word (R52, R72). -/
theorem decode_cons_wordBytes {op : Byte} {f : Word → Instr} (hop : shapeOf op = some (.wd f)) (w : Word) :
    decode (op :: wordBytes w) = .ok (f w) := by
  rw [decode_cons_of_shapeOf hop, wordBytes, readOperands, wordOfBytes_wordByte]

/-- A string that fits its length byte has the length that byte says (R73). -/
theorem length_eq_toNat_byteOfNat {data : List Byte} (h : operandFits data = true) :
    data.length = (byteOfNat data.length).toNat := (Laws.Framing.toNat_byteOfNat h).symm

theorem decode_encodeL {op : Byte} {f : List Byte → Instr} {data : List Byte} (hop : shapeOf op = some (.l f))
    (h : operandFits data = true) : decode (encodeL op data) = .ok (f data) := by
  rw [encodeL, decode_cons_of_shapeOf hop, readOperands, if_pos (length_eq_toNat_byteOfNat h)]

theorem decode_encode_addrk (rk : Byte) {data : List Byte} (h : operandFits data = true) :
    decode (encode (.addrk rk data)) = .ok (.addrk rk data) := by
  rw [encode, decode_cons_of_shapeOf (shape := .rl .addrk) rfl, readOperands, if_pos (length_eq_toNat_byteOfNat h)]

/-- The request of a command that has one is decoded to that command. -/
theorem decode_encode {i : Instr} (h : i.wellFormed = true) : decode (encode i) = .ok i := by
  cases i with
  | gfmul a b => rfl
  | sbox a => rfl
  | isbox a => rfl
  | rotw w => exact decode_cons_wordBytes rfl w
  | subw w => exact decode_cons_wordBytes rfl w
  | rcon j => rfl
  | subb data => exact decode_encodeL rfl h
  | isubb data => exact decode_encodeL rfl h
  | shrows data => exact decode_encodeL rfl h
  | ishrows data => exact decode_encodeL rfl h
  | mixcol data => exact decode_encodeL rfl h
  | imixcol data => exact decode_encodeL rfl h
  | addrk rk data => exact decode_encode_addrk rk h
  | inc32 data => exact decode_encodeL rfl h
  | pad data => exact decode_encodeL rfl h
  | unpad data => exact decode_encodeL rfl h
  | keyexp key => exact decode_encodeL rfl h
  | rdrk index => rfl
  | encblk data => exact decode_encodeL rfl h
  | decblk data => exact decode_encodeL rfl h
  | cbcinit iv => exact decode_encodeL rfl h
  | cbcencb data => exact decode_encodeL rfl h
  | cbcencf data => exact decode_encodeL rfl h
  | cbcdecb data => exact decode_encodeL rfl h
  | cbcdecf data => exact decode_encodeL rfl h
  | rdcv => rfl
  | ctrinit ctr => exact decode_encodeL rfl h
  | ctrencb data => exact decode_encodeL rfl h
  | ctrencf data => exact decode_encodeL rfl h
  | ctrdecb data => exact decode_encodeL rfl h
  | ctrdecf data => exact decode_encodeL rfl h
  | rdctr => rfl

/-- Settles O6: each format's operands are read back as they were written, the length byte included. -/
theorem decodeOfEncode : Obligations.DecodeOfEncode := fun _ h => decode_encode h

/-- A row of the opcode map agrees with the encoder: the commands of the row have a request exactly when their operand
string fits, and it is the opcode followed by the operands in the row's format (R72, R80). -/
def RowEncodes (op : Byte) : Shape → Prop
  | .z i => i.wellFormed = true ∧ encode i = [op]
  | .b1 f => ∀ a, (f a).wellFormed = true ∧ encode (f a) = [op, a]
  | .b2 f => ∀ a b, (f a b).wellFormed = true ∧ encode (f a b) = [op, a, b]
  | .wd f => ∀ w, (f w).wellFormed = true ∧ encode (f w) = op :: wordBytes w
  | .l f => ∀ data, (f data).wellFormed = operandFits data ∧ encode (f data) = encodeL op data
  | .rl f => ∀ rk data, (f rk data).wellFormed = operandFits data ∧
      encode (f rk data) = op :: rk :: byteOfNat data.length :: data

theorem rowEncodes_of_mem_opcodeMap : ∀ row ∈ opcodeMap, RowEncodes row.1 row.2 := by
  simp only [opcodeMap, List.forall_mem_cons, RowEncodes]
  simp only [Instr.wellFormed, encode]
  simp only [List.not_mem_nil, false_imp_iff, implies_true, and_true]

/-- A string as long as a byte says fits that length byte, which is the one the encoder writes (R72). -/
theorem operandFits_and_byteOfNat_of_length_eq {data : List Byte} {len : Byte} (h : data.length = len.toNat) :
    operandFits data = true ∧ byteOfNat data.length = len := by
  have := len.isLt
  refine ⟨decide_eq_true (by omega), ?_⟩
  rw [h, byteOfNat, BitVec.ofNat_toNat, BitVec.setWidth_eq]

/-- Operands that a format reads are the operands its command is written with (R72, R73). -/
theorem encode_of_readOperands {op : Byte} {shape : Shape} {operands : List Byte} {i : Instr}
    (hrow : RowEncodes op shape) (hread : readOperands shape operands = .ok i) :
    i.wellFormed = true ∧ encode i = op :: operands := by
  cases shape with
  | z j =>
    obtain _ | ⟨a, rest⟩ := operands <;> cases hread
    exact hrow
  | b1 f =>
    obtain _ | ⟨a, _ | ⟨b, rest⟩⟩ := operands <;> cases hread
    exact hrow a
  | b2 f =>
    obtain _ | ⟨a, _ | ⟨b, _ | ⟨c, rest⟩⟩⟩ := operands <;> cases hread
    exact hrow a b
  | wd f =>
    obtain _ | ⟨b0, _ | ⟨b1, _ | ⟨b2, _ | ⟨b3, _ | ⟨b4, rest⟩⟩⟩⟩⟩ := operands <;> cases hread
    exact wordBytes_wordOfBytes b0 b1 b2 b3 ▸ hrow (wordOfBytes b0 b1 b2 b3)
  | l f =>
    obtain _ | ⟨len, data⟩ := operands
    · cases hread
    · rw [readOperands] at hread
      split at hread <;> cases hread
      next hlen =>
      obtain ⟨hfits, hbyte⟩ := operandFits_and_byteOfNat_of_length_eq hlen
      obtain ⟨hwf, henc⟩ := hrow data
      exact ⟨hwf.trans hfits, by rw [henc, encodeL, hbyte]⟩
  | rl f =>
    obtain _ | ⟨rk, _ | ⟨len, data⟩⟩ := operands
    · cases hread
    · cases hread
    · rw [readOperands] at hread
      split at hread <;> cases hread
      next hlen =>
      obtain ⟨hfits, hbyte⟩ := operandFits_and_byteOfNat_of_length_eq hlen
      obtain ⟨hwf, henc⟩ := hrow rk data
      exact ⟨hwf.trans hfits, by rw [henc, hbyte]⟩

/-- A request that decodes is the request of its command. -/
theorem encode_of_decode {req : List Byte} {i : Instr} (h : decode req = .ok i) :
    i.wellFormed = true ∧ encode i = req := by
  cases req with
  | nil => cases h
  | cons op operands =>
    cases hop : shapeOf op with
    | none => simp [decode, hop] at h
    | some shape =>
      rw [decode_cons_of_shapeOf hop] at h
      exact encode_of_readOperands (rowEncodes_of_mem_opcodeMap _ (Machine.mem_opcodeMap_of_shapeOf hop)) h

/-- Settles O7: each row of the opcode map agrees with the encoder, and each format is read as it is written. -/
theorem encodeOfDecode : Obligations.EncodeOfDecode := fun _ _ h => encode_of_decode h

/-- Settles O2: eleven fixed byte strings, each read by the decoder. -/
theorem specRequestsDecode : Obligations.SpecRequestsDecode := by
  unfold Obligations.SpecRequestsDecode
  decide

/-- Settles O8: the status bytes of R200 stand in the definition of a response's bytes. -/
theorem statusBytes : Obligations.StatusBytes :=
  ⟨fun _ => rfl, rfl, rfl, rfl, rfl, rfl⟩

end Sys2Proof

namespace Sys2Proof.Machine

/-- With nothing to take the block holds its state (R215). -/
theorem step_of_inbox_nil {s : State} (h : s.inbox = []) : step s = .next s := step_eq_next.2 (.inl ⟨h, rfl⟩)

/-- A reset event resets the registers and leaves the channels (R220). -/
theorem step_of_reset {s : State} {rest : List HostEvent} (h : s.inbox = .reset :: rest) :
    step s = .next { State.reset with staleCount := s.staleCount, inbox := rest, outbox := s.outbox } :=
  step_eq_next.2 (.inr (.inl ⟨rest, h, rfl⟩))

/-- Settles O1: one lemma for each kind of event a step can take. -/
theorem stepTakesTheNextEvent : Obligations.StepTakesTheNextEvent := fun _ =>
  ⟨step_of_inbox_nil, fun _ => ⟨step_of_reset, fun _ hin =>
    ⟨fun _ => step_of_decode_ok hin, fun _ => step_of_decode_error hin⟩⟩⟩

/-- Settles O3: a reset event puts back the registers of `State.reset`, whose flags are 0. -/
theorem resetClearsTheFlags : Obligations.ResetClearsTheFlags :=
  ⟨⟨rfl, rfl, rfl, rfl, rfl⟩, fun _ _ h => ⟨_, step_of_reset h, rfl, rfl, rfl, rfl, rfl⟩⟩

end Sys2Proof.Machine
end

section
/-! PROOFS. What every command does: it makes the checks of R208, and with no error it answers one payload and makes at
most one kind of write (60_exceptions.md R206 to R208, 10_state.md R36). -/

namespace Sys2Proof.Machine

/-- The counted bytes an unpadding command answers for a block with a legal last byte (R76, R161). -/
def unpaddedPayload (d : Block) : List Byte := countedBytes ((blockBytes d).take (16 - d[15].toNat))

/-- A last byte of 1 to 16 is the whole check without `UNPAD_STRICT`: the bytes before the counted ones are answered
(R161, R163). -/
theorem respondUnpadded_of_legal_count {d : Block} (h1 : 1 ≤ d[15].toNat) (h16 : d[15].toNat ≤ 16) (c s : State) :
    respondUnpadded false d c s = respond (unpaddedPayload d) c := by
  rw [respondUnpadded, unpadFinal_false_of_legal_count h1 h16, unpaddedPayload]

/-- Another last byte is InvalidPadding, and no write is made (R161, R206). -/
theorem respondUnpadded_of_illegal_count {d : Block} (strict : Bool) (h : d[15].toNat = 0 ∨ d[15].toNat > 16)
    (c s : State) : respondUnpadded strict d c s = raise .invalidPadding s := by
  rw [respondUnpadded, unpadFinal_of_illegal_count strict h]

/-- A block whose last byte is no illegal count. -/
theorem legal_count_of_not_illegal {d : Block} (h : ¬(d[15].toNat = 0 ∨ d[15].toNat > 16)) :
    1 ≤ d[15].toNat ∧ d[15].toNat ≤ 16 := by omega

/-- UNPAD of a block unpads it at the default of `UNPAD_STRICT` (R163, log 6). -/
theorem exec_unpad_of_length {data : List Byte} (h : data.length = 16) (s : State) :
    exec (.unpad data) s = respondUnpadded false (blockOfBytes data) s s := by
  rw [exec, execUnpad, withBlock_of_length h, Config.unpadStrict]

/-- With both flags set CBCDECF unpads the decrypted block (R169, log 6). -/
theorem exec_cbcdecf_of_length {data : List Byte} {s : State} (hks : s.ksValid = true) (hcv : s.cvValid = true)
    (h : data.length = 16) :
    exec (.cbcdecf data) s =
      respondUnpadded false (cbcDecryptBlock s (blockOfBytes data)) (s.setCv (blockOfBytes data)) s := by
  rw [exec, execCbcdecf, withBlock_of_length h, needCbc_of_valid hks hcv, Config.unpadStrict]

/-- With both flags set CTRDECF unpads the block XOR the keystream (R186, log 6). -/
theorem exec_ctrdecf_of_length {data : List Byte} {s : State} (hks : s.ksValid = true) (hcb : s.cbValid = true)
    (h : data.length = 16) :
    exec (.ctrdecf data) s =
      respondUnpadded false (ctrBlock s (blockOfBytes data)) (s.setCb (inc32 s.cb)) s := by
  rw [exec, execCtrdecf, withBlock_of_length h, needCtr_of_valid hks hcb, Config.unpadStrict]

/-- The payload a command answers when it has no error. -/
def okPayload : Instr → State → List Byte
  | .gfmul a b, _ => [gfmul a b]
  | .sbox a, _ => [sbox a]
  | .isbox a, _ => [isbox a]
  | .rotw w, _ => wordBytes (rotWord w)
  | .subw w, _ => wordBytes (subWord w)
  | .rcon j, _ => wordBytes (rcon j.toNat)
  | .subb data, _ => blockBytes (onBlock subBytes (blockOfBytes data))
  | .isubb data, _ => blockBytes (onBlock invSubBytes (blockOfBytes data))
  | .shrows data, _ => blockBytes (onBlock shiftRows (blockOfBytes data))
  | .ishrows data, _ => blockBytes (onBlock invShiftRows (blockOfBytes data))
  | .mixcol data, _ => blockBytes (onBlock mixColumns (blockOfBytes data))
  | .imixcol data, _ => blockBytes (onBlock invMixColumns (blockOfBytes data))
  | .addrk rk data, s => blockBytes (onBlock (addRoundKey s.w rk.toNat) (blockOfBytes data))
  | .inc32 data, _ => blockBytes (inc32 (blockOfBytes data))
  | .pad data, _ => padFinal data
  | .unpad data, _ => unpaddedPayload (blockOfBytes data)
  | .keyexp _, _ => []
  | .rdrk index, s => wordBytes (wordAt s.w index.toNat)
  | .encblk data, s => blockBytes (encryptUnder s (blockOfBytes data))
  | .decblk data, s => blockBytes (decryptUnder s (blockOfBytes data))
  | .cbcinit _, _ => []
  | .cbcencb data, s => blockBytes (cbcEncryptBlock s (blockOfBytes data))
  | .cbcencf data, s => blockBytes (cbcEncryptBlock s (blockOfBytes (padFinal data)))
  | .cbcdecb data, s => blockBytes (cbcDecryptBlock s (blockOfBytes data))
  | .cbcdecf data, s => unpaddedPayload (cbcDecryptBlock s (blockOfBytes data))
  | .rdcv, s => blockBytes s.cv
  | .ctrinit _, _ => []
  | .ctrencb data, s => blockBytes (ctrBlock s (blockOfBytes data))
  | .ctrencf data, s => blockBytes (ctrBlock s (blockOfBytes (padFinal data)))
  | .ctrdecb data, s => blockBytes (ctrBlock s (blockOfBytes data))
  | .ctrdecf data, s => unpaddedPayload (ctrBlock s (blockOfBytes data))
  | .rdctr, s => blockBytes s.cb

/-- What a command can write to the registers (R36): nothing, the schedule with its size and flag, or CV or CB, alone or
with its flag. -/
inductive RegWrite where
  | nothing
  | schedule (k : KeyLen) (words : List Word)
  | cv (b : Block)
  | initCv (b : Block)
  | cb (b : Block)
  | initCb (b : Block)

/-- The state with a write made. -/
def RegWrite.apply (s : State) : RegWrite → State
  | .nothing => s
  | .schedule k words => s.setSchedule (scheduleStore k words s.staleCount) k
  | .cv b => s.setCv b
  | .initCv b => s.initCv b
  | .cb b => s.setCb b
  | .initCb b => s.initCb b

/-- The write of a command that has no error. -/
def writeOf : Instr → State → RegWrite
  | .keyexp key, _ =>
    match keyLenOf key.length with
    | some k => .schedule k (expand key (keyWords k))
    | none => .nothing
  | .cbcinit iv, _ => .initCv (blockOfBytes iv)
  | .cbcencb data, s => .cv (cbcEncryptBlock s (blockOfBytes data))
  | .cbcencf data, s => .cv (cbcEncryptBlock s (blockOfBytes (padFinal data)))
  | .cbcdecb data, _ => .cv (blockOfBytes data)
  | .cbcdecf data, _ => .cv (blockOfBytes data)
  | .ctrinit ctr, _ => .initCb (blockOfBytes ctr)
  | .ctrencb _, s => .cb (inc32 s.cb)
  | .ctrencf _, s => .cb (inc32 s.cb)
  | .ctrdecb _, s => .cb (inc32 s.cb)
  | .ctrdecf _, s => .cb (inc32 s.cb)
  | _, _ => .nothing

theorem writeOf_keyexp {key : List Byte} {k : KeyLen} (h : key.length = 4 * keyWords k) (s : State) :
    writeOf (.keyexp key) s = .schedule k (expand key (keyWords k)) := by
  rw [writeOf, keyLenOf_eq_some.2 h]

@[simp] theorem RegWrite.apply_outbox (wr : RegWrite) (s : State) : (wr.apply s).outbox = s.outbox := by
  cases wr <;> simp [RegWrite.apply]

@[simp] theorem RegWrite.apply_inbox (wr : RegWrite) (s : State) : (wr.apply s).inbox = s.inbox := by
  cases wr <;> simp [RegWrite.apply]

/-- A command with an error raises it in the state it found (R206). -/
theorem exec_of_expectedError {i : Instr} {s : State} {e : CmdError} (h : expectedError i s = some e) :
    exec i s = raise e s := by
  have hrep := exec_reports i s
  rw [h] at hrep
  generalize exec i s = result at hrep ⊢
  cases hrep
  rfl

/-- A key operand of a legal length (R202). -/
theorem exists_keyLen_of_mem {n : Nat} (h : n ∈ [16, 24, 32]) : ∃ k, n = 4 * keyWords k := by
  simp only [List.mem_cons, List.not_mem_nil, or_false] at h
  rcases h with rfl | rfl | rfl
  · exact ⟨.nk4, rfl⟩
  · exact ⟨.nk6, rfl⟩
  · exact ⟨.nk8, rfl⟩

/-- A check in the chain passes when its condition is not met. -/
theorem ite_some_eq_none_iff {α : Type} {check : Prop} [Decidable check] {e : α} {later : Option α} :
    (if check then some e else later) = none ↔ ¬check ∧ later = none := by
  split <;> simp [*]

/-- No error is expected exactly when each of R208's checks passes. -/
theorem expectedError_eq_none_iff {i : Instr} {s : State} : expectedError i s = none ↔
    (∀ data ∈ blockOperand i, data.length = 16) ∧ (∀ data ∈ tailOperand i, data.length ≤ 15) ∧
      (∀ key ∈ keyOperand i, key.length ∈ [16, 24, 32]) ∧ missingFlag i s = false ∧
      operandOutOfRange i s = false ∧ badPadding i s = false := by
  simp only [expectedError_eq_ite, ite_some_eq_none_iff, not_exists, not_and, not_not, gt_iff_lt, not_lt,
    Bool.not_eq_true, and_true]

/-- A command with no error answers its payload in the state with its write (R206). -/
theorem exec_of_no_error {i : Instr} {s : State} (h : expectedError i s = none) :
    exec i s = respond (okPayload i s) ((writeOf i s).apply s) := by
  rw [expectedError_eq_none_iff] at h
  cases i with simp only [blockOperand, tailOperand, keyOperand, missingFlag, usesSchedule, usesCv, usesCb,
      operandOutOfRange, badPadding, unpaddedBlock, Option.mem_def, Option.some.injEq, forall_eq', reduceCtorEq,
      false_imp_iff, implies_true, true_and, and_true, Bool.true_and, Bool.false_and, Bool.or_false, Bool.false_or,
      Bool.or_eq_false_iff, Bool.not_eq_eq_eq_not, Bool.not_false, beq_eq_false_iff_ne, decide_eq_false_iff_not] at h
  | gfmul a b => rfl
  | sbox a => rfl
  | isbox a => rfl
  | rotw w => rfl
  | subw w => rfl
  | rcon j => exact if_neg h
  | subb data => rw [exec, execSubb, withBlock_of_length h]; rfl
  | isubb data => rw [exec, execIsubb, withBlock_of_length h]; rfl
  | shrows data => rw [exec, execShrows, withBlock_of_length h]; rfl
  | ishrows data => rw [exec, execIshrows, withBlock_of_length h]; rfl
  | mixcol data => rw [exec, execMixcol, withBlock_of_length h]; rfl
  | imixcol data => rw [exec, execImixcol, withBlock_of_length h]; rfl
  | addrk rk data =>
    obtain ⟨hlen, hks, hrk⟩ := h
    rw [exec, execAddrk, withBlock_of_length hlen, needSchedule_of_valid hks, roundCount, if_neg hrk]
    rfl
  | inc32 data => rw [exec, execInc32, withBlock_of_length h]; rfl
  | pad data => rw [exec, execPad, withTail_of_length h]; rfl
  | unpad data =>
    obtain ⟨hlen, hcount⟩ := h
    obtain ⟨h1, h16⟩ := legal_count_of_not_illegal (not_or.2 hcount)
    exact (exec_unpad_of_length hlen s).trans (respondUnpadded_of_legal_count h1 h16 ..)
  | keyexp key =>
    obtain ⟨k, hk⟩ := exists_keyLen_of_mem h
    rw [exec, execKeyexp, withKey_of_length hk, writeOf_keyexp hk, okPayload, RegWrite.apply]
  | rdrk index =>
    obtain ⟨hks, hindex⟩ := h
    exact (needSchedule_of_valid hks).trans (if_neg hindex)
  | encblk data =>
    obtain ⟨hlen, hks⟩ := h
    exact exec_encblk_of_length hlen hks
  | decblk data =>
    obtain ⟨hlen, hks⟩ := h
    exact exec_decblk_of_length hlen hks
  | cbcinit iv => rw [exec, execCbcinit, withBlock_of_length h]; rfl
  | cbcencb data =>
    obtain ⟨hlen, hks, hcv⟩ := h
    exact exec_cbcencb_of_length hks hcv hlen
  | cbcencf data =>
    obtain ⟨hlen, hks, hcv⟩ := h
    exact exec_cbcencf_of_length hks hcv hlen
  | cbcdecb data =>
    obtain ⟨hlen, hks, hcv⟩ := h
    exact exec_cbcdecb_of_length hks hcv hlen
  | cbcdecf data =>
    obtain ⟨hlen, ⟨hks, hcv⟩, hcount⟩ := h
    obtain ⟨h1, h16⟩ := legal_count_of_not_illegal (not_or.2 hcount)
    exact (exec_cbcdecf_of_length hks hcv hlen).trans (respondUnpadded_of_legal_count h1 h16 ..)
  | rdcv => exact needCv_of_valid h
  | ctrinit ctr => rw [exec, execCtrinit, withBlock_of_length h]; rfl
  | ctrencb data =>
    obtain ⟨hlen, hks, hcb⟩ := h
    rw [exec, execCtrencb, withBlock_of_length hlen, needCtr_of_valid hks hcb]
    rfl
  | ctrencf data =>
    obtain ⟨hlen, hks, hcb⟩ := h
    rw [exec, execCtrencf, withTail_of_length hlen, needCtr_of_valid hks hcb]
    rfl
  | ctrdecb data =>
    obtain ⟨hlen, hks, hcb⟩ := h
    rw [exec, execCtrdecb, withBlock_of_length hlen, needCtr_of_valid hks hcb]
    rfl
  | ctrdecf data =>
    obtain ⟨hlen, ⟨hks, hcb⟩, hcount⟩ := h
    obtain ⟨h1, h16⟩ := legal_count_of_not_illegal (not_or.2 hcount)
    exact (exec_ctrdecf_of_length hks hcb hlen).trans (respondUnpadded_of_legal_count h1 h16 ..)
  | rdctr => exact needCb_of_valid h

/-- Everything a command can do: raise its error in the state it found, or, with no error, make its write and answer
its payload. -/
theorem exec_eq_next {i : Instr} {s t : State} : exec i s = .next t ↔
    (∃ e, expectedError i s = some e ∧ t = s.answer (.error e)) ∨
      expectedError i s = none ∧ t = ((writeOf i s).apply s).answer (.ok (okPayload i s)) := by
  cases h : expectedError i s with
  | none => simp [exec_of_no_error h, respond_eq_next]
  | some e => simp [exec_of_expectedError h, raise_eq_next]

/-- Settles O9: the command's answer, its form left aside. -/
theorem everyCommandAnswersOnce : Obligations.EveryCommandAnswersOnce := fun i s => by
  obtain ⟨t, r, hexec, hout, hin, -⟩ := exec_answers i s
  exact ⟨t, r, hexec, hout, hin⟩

/-- Settles O12: with every check passed a command answers its payload; at the default of `UNPAD_STRICT` there is no
check beyond those of R208. -/
theorem commandsWithNoErrorAnswerOk : Obligations.CommandsWithNoErrorAnswerOk := fun i s h =>
  ⟨_, okPayload i s, exec_eq_next.2 (.inr ⟨h, rfl⟩), by rw [State.answer_outbox, RegWrite.apply_outbox]⟩

/-- A write that R36 lists for a command. -/
def RegWrite.allowedFor (i : Instr) : RegWrite → Prop
  | .nothing => True
  | .schedule _ _ => writesSchedule i = true
  | .cv _ => writesCv i = true
  | .initCv _ => writesCv i = true ∧ writesCvValid i = true
  | .cb _ => writesCb i = true
  | .initCb _ => writesCb i = true ∧ writesCbValid i = true

/-- Every command makes a write that R36 lists for it. -/
theorem writeOf_allowedFor (i : Instr) (s : State) : (writeOf i s).allowedFor i := by
  cases i <;> simp only [writeOf, RegWrite.allowedFor, writesCv, writesCvValid, writesCb, writesCbValid, and_self]
  case keyexp key => cases keyLenOf key.length <;> trivial

/-- A register for which R36 lists no write of the command is left as it was. -/
theorem RegWrite.frame {i : Instr} {wr : RegWrite} (h : wr.allowedFor i) (s : State) :
    (writesSchedule i = false → (wr.apply s).w = s.w ∧ (wr.apply s).nk = s.nk ∧ (wr.apply s).ksValid = s.ksValid ∧
      (wr.apply s).staleCount = s.staleCount) ∧
    (writesCv i = false → (wr.apply s).cv = s.cv) ∧ (writesCvValid i = false → (wr.apply s).cvValid = s.cvValid) ∧
    (writesCb i = false → (wr.apply s).cb = s.cb) ∧ (writesCbValid i = false → (wr.apply s).cbValid = s.cbValid) := by
  cases wr <;> simp only [RegWrite.allowedFor] at h <;> simp [RegWrite.apply, h]

/-- Settles O14: an error writes nothing, and otherwise the one write a command makes is one R36 lists for it. -/
theorem commandsWriteOnlyTheirRegisters : Obligations.CommandsWriteOnlyTheirRegisters := by
  intro i s t hexec
  obtain ⟨e, -, rfl⟩ | ⟨-, rfl⟩ := exec_eq_next.1 hexec
  · simp
  · obtain ⟨hsched, hcv, hcvValid, hcb, hcbValid⟩ := RegWrite.frame (writeOf_allowedFor i s) s
    exact ⟨hsched, hcv, hcvValid, hcb, hcbValid, by simp⟩

/-- No write clears a flag. -/
theorem RegWrite.keeps_flags (wr : RegWrite) (s : State) :
    (s.ksValid = true → (wr.apply s).ksValid = true) ∧ (s.cvValid = true → (wr.apply s).cvValid = true) ∧
      (s.cbValid = true → (wr.apply s).cbValid = true) := by
  cases wr <;> simp +contextual [RegWrite.apply]

theorem eq_keyexp_of_writesSchedule {i : Instr} (h : writesSchedule i = true) : ∃ key, i = .keyexp key := by
  cases i <;> simp only [writesSchedule, Bool.false_eq_true] at h
  exact ⟨_, rfl⟩

theorem eq_cbcinit_of_writesCvValid {i : Instr} (h : writesCvValid i = true) : ∃ iv, i = .cbcinit iv := by
  cases i <;> simp only [writesCvValid, Bool.false_eq_true] at h
  exact ⟨_, rfl⟩

theorem eq_ctrinit_of_writesCbValid {i : Instr} (h : writesCbValid i = true) : ∃ ctr, i = .ctrinit ctr := by
  cases i <;> simp only [writesCbValid, Bool.false_eq_true] at h
  exact ⟨_, rfl⟩

/-- A command clears no flag, and one that changes a flag is KEYEXP, CBCINIT or CTRINIT and is answered OK with no
payload (R26). -/
theorem exec_flags {i : Instr} {s t : State} (hexec : exec i s = .next t) :
    ((s.ksValid = true → t.ksValid = true) ∧ (s.cvValid = true → t.cvValid = true) ∧
      (s.cbValid = true → t.cbValid = true)) ∧
    (t.ksValid ≠ s.ksValid → (∃ key, i = .keyexp key) ∧ t.outbox = s.outbox ++ [.ok []]) ∧
    (t.cvValid ≠ s.cvValid → (∃ iv, i = .cbcinit iv) ∧ t.outbox = s.outbox ++ [.ok []]) ∧
    (t.cbValid ≠ s.cbValid → (∃ ctr, i = .ctrinit ctr) ∧ t.outbox = s.outbox ++ [.ok []]) := by
  obtain ⟨e, -, rfl⟩ | ⟨-, rfl⟩ := exec_eq_next.1 hexec
  · simp
  · obtain ⟨hsched, -, hcvValid, -, hcbValid⟩ := RegWrite.frame (writeOf_allowedFor i s) s
    refine ⟨RegWrite.keeps_flags _ s, fun hne => ?_, fun hne => ?_, fun hne => ?_⟩
    · have hwrites : writesSchedule i = true := eq_true_of_ne_false fun h => by
        obtain ⟨-, -, hks, -⟩ := hsched h
        exact hne hks
      obtain ⟨key, rfl⟩ := eq_keyexp_of_writesSchedule hwrites
      exact ⟨⟨key, rfl⟩, by simp [okPayload]⟩
    · obtain ⟨iv, rfl⟩ := eq_cbcinit_of_writesCvValid (eq_true_of_ne_false fun h => hne (hcvValid h))
      exact ⟨⟨iv, rfl⟩, by simp [okPayload]⟩
    · obtain ⟨ctr, rfl⟩ := eq_ctrinit_of_writesCbValid (eq_true_of_ne_false fun h => hne (hcbValid h))
      exact ⟨⟨ctr, rfl⟩, by simp [okPayload]⟩

/-- Settles O16: of the steps other than a reset only a command changes a flag, and its request is that command's. -/
theorem flagsFallOnlyByReset : Obligations.FlagsFallOnlyByReset := by
  intro s t hstep hreset
  obtain ⟨-, rfl⟩ | ⟨rest, hin, -⟩ | ⟨bytes, rest, i, hin, hdec, hexec⟩ | ⟨bytes, rest, r, hin, -, rfl⟩ :=
    step_eq_next.1 hstep
  · simp +contextual
  · exact absurd hin (hreset rest)
  · obtain ⟨-, rfl⟩ := encode_of_decode hdec
    obtain ⟨⟨hks, hcv, hcb⟩, hksRises, hcvRises, hcbRises⟩ := exec_flags hexec
    refine ⟨hks, hcv, hcb, fun h0 h1 => ?_, fun h0 h1 => ?_, fun h0 h1 => ?_⟩
    · obtain ⟨⟨key, rfl⟩, hout⟩ := hksRises (by simp [h0, h1])
      exact ⟨key, rest, hin, hout⟩
    · obtain ⟨⟨iv, rfl⟩, hout⟩ := hcvRises (by simp [h0, h1])
      exact ⟨iv, rest, hin, hout⟩
    · obtain ⟨⟨ctr, rfl⟩, hout⟩ := hcbRises (by simp [h0, h1])
      exact ⟨ctr, rest, hin, hout⟩
  · simp +contextual

end Sys2Proof.Machine
end

section
/-! PROOFS. What a command reads: the words of the schedule only up to its length, and a register only when its flag is
1 (10_state.md R26, R34, R36; U7, U8). -/

namespace Sys2Proof.Machine

section
variable {w w' : Vector Word 60} {nr : Nat} (h : ∀ k < 4 * (nr + 1), wordAt w k = wordAt w' k)
include h

/-- Round key `rk` is read from words 4rk to 4rk + 3 (R140). -/
theorem addRoundKey_congr {rk : Nat} (hrk : rk ≤ nr) (S : Matrix) : addRoundKey w rk S = addRoundKey w' rk S :=
  matrix_ext fun r c => by rw [cell_addRoundKey, cell_addRoundKey, h _ (by omega)]

theorem encryptRounds_congr {n : Nat} (hn : n ≤ nr) (S : Matrix) : encryptRounds w n S = encryptRounds w' n S := by
  induction n with
  | zero => rfl
  | succ n ih => rw [encryptRounds, encryptRounds, ih (by omega), fullRound, fullRound, addRoundKey_congr h hn]

theorem decryptRounds_congr {n : Nat} (hn : n ≤ nr) (S : Matrix) : decryptRounds w n S = decryptRounds w' n S := by
  induction n generalizing S with
  | zero => rfl
  | succ n ih => rw [decryptRounds, decryptRounds, undoRound, undoRound, addRoundKey_congr h hn, ih (by omega)]

/-- Encryption reads the words of round keys 0 to Nr only (R150). -/
theorem encrypt_congr (b : Block) : encrypt w nr b = encrypt w' nr b := by
  rw [encrypt, encrypt, addRoundKey_congr h (Nat.zero_le nr), encryptRounds_congr h (Nat.sub_le nr 1),
    addRoundKey_congr h le_rfl]

/-- Decryption reads the words of round keys 0 to Nr only (R151). -/
theorem decrypt_congr (b : Block) : decrypt w nr b = decrypt w' nr b := by
  rw [decrypt, decrypt, addRoundKey_congr h le_rfl, decryptRounds_congr h (Nat.sub_le nr 1),
    addRoundKey_congr h (Nat.zero_le nr)]

end

/-- Two states hold the same schedule: the same key length and the same words as far as the schedule goes. -/
structure SameSchedule (s s' : State) : Prop where
  nk : s.nk = s'.nk
  word : ∀ k < scheduleLength s.nk, wordAt s.w k = wordAt s'.w k

theorem SameSchedule.encryptUnder_eq {s s' : State} (h : SameSchedule s s') (b : Block) :
    encryptUnder s b = encryptUnder s' b := by
  rw [encryptUnder, encryptUnder, ← h.nk]
  exact encrypt_congr h.word b

theorem SameSchedule.decryptUnder_eq {s s' : State} (h : SameSchedule s s') (b : Block) :
    decryptUnder s b = decryptUnder s' b := by
  rw [decryptUnder, decryptUnder, ← h.nk]
  exact decrypt_congr h.word b

/-- Two states agree on what a command can read: the flags of the registers it uses, and each of these registers if its
flag is 1 (R34, R36). -/
structure SameReads (i : Instr) (s s' : State) : Prop where
  ksValid : usesSchedule i = true → s.ksValid = s'.ksValid
  cvValid : usesCv i = true → s.cvValid = s'.cvValid
  cbValid : usesCb i = true → s.cbValid = s'.cbValid
  schedule : usesSchedule i = true → s.ksValid = true → SameSchedule s s'
  cv : usesCv i = true → s.cvValid = true → s.cv = s'.cv
  cb : usesCb i = true → s.cbValid = true → s.cb = s'.cb

/-- Two states agree on the registers a command uses. -/
structure SameUsed (i : Instr) (s s' : State) : Prop where
  schedule : usesSchedule i = true → SameSchedule s s'
  cv : usesCv i = true → s.cv = s'.cv
  cb : usesCb i = true → s.cb = s'.cb

section
variable {i : Instr} {s s' : State}

theorem missingFlag_eq_false_iff : missingFlag i s = false ↔
    (usesSchedule i = true → s.ksValid = true) ∧ (usesCv i = true → s.cvValid = true) ∧
      (usesCb i = true → s.cbValid = true) := by
  simp only [missingFlag, Bool.or_eq_false_iff, and_assoc]
  simp

theorem SameReads.missingFlag_eq (h : SameReads i s s') : missingFlag i s = missingFlag i s' := by
  have hks : (usesSchedule i && !s.ksValid) = (usesSchedule i && !s'.ksValid) := by
    cases hi : usesSchedule i <;> simp [h.ksValid, hi]
  have hcv : (usesCv i && !s.cvValid) = (usesCv i && !s'.cvValid) := by
    cases hi : usesCv i <;> simp [h.cvValid, hi]
  have hcb : (usesCb i && !s.cbValid) = (usesCb i && !s'.cbValid) := by
    cases hi : usesCb i <;> simp [h.cbValid, hi]
  rw [missingFlag, missingFlag, hks, hcv, hcb]

/-- A command that misses no flag may read all the registers it uses. -/
theorem SameReads.sameUsed (h : SameReads i s s') (hflags : missingFlag i s = false) : SameUsed i s s' := by
  obtain ⟨hks, hcv, hcb⟩ := missingFlag_eq_false_iff.1 hflags
  exact ⟨fun hi => h.schedule hi (hks hi), fun hi => h.cv hi (hcv hi), fun hi => h.cb hi (hcb hi)⟩

theorem SameUsed.operandOutOfRange_eq (h : SameUsed i s s') : operandOutOfRange i s = operandOutOfRange i s' := by
  cases i with
  | addrk rk data => rw [operandOutOfRange, operandOutOfRange, (h.schedule rfl).nk]
  | rdrk index => rw [operandOutOfRange, operandOutOfRange, (h.schedule rfl).nk]
  | _ => rfl

theorem SameUsed.unpaddedBlock_eq (h : SameUsed i s s') : unpaddedBlock i s = unpaddedBlock i s' := by
  cases i with
  | cbcdecf data => rw [unpaddedBlock, unpaddedBlock, (h.schedule rfl).decryptUnder_eq, h.cv rfl]
  | ctrdecf data => rw [unpaddedBlock, unpaddedBlock, (h.schedule rfl).encryptUnder_eq, h.cb rfl]
  | _ => rfl

/-- Which error a command reports depends on what it can read alone. -/
theorem SameReads.expectedError_eq (h : SameReads i s s') : expectedError i s = expectedError i s' := by
  simp only [expectedError_eq_ite, ← h.missingFlag_eq]
  cases hflags : missingFlag i s with
  | true => simp only [if_true]
  | false =>
    have hused := h.sameUsed hflags
    rw [hused.operandOutOfRange_eq, badPadding, badPadding, hused.unpaddedBlock_eq]

theorem SameUsed.cbcEncryptBlock_eq (h : SameUsed i s s') (hks : usesSchedule i = true) (hcv : usesCv i = true)
    (p : Block) : cbcEncryptBlock s p = cbcEncryptBlock s' p := by
  rw [cbcEncryptBlock, cbcEncryptBlock, (h.schedule hks).encryptUnder_eq, h.cv hcv]

theorem SameUsed.cbcDecryptBlock_eq (h : SameUsed i s s') (hks : usesSchedule i = true) (hcv : usesCv i = true)
    (c : Block) : cbcDecryptBlock s c = cbcDecryptBlock s' c := by
  rw [cbcDecryptBlock, cbcDecryptBlock, (h.schedule hks).decryptUnder_eq, h.cv hcv]

theorem SameUsed.ctrBlock_eq (h : SameUsed i s s') (hks : usesSchedule i = true) (hcb : usesCb i = true)
    (x : Block) : ctrBlock s x = ctrBlock s' x := by
  rw [ctrBlock, ctrBlock, (h.schedule hks).encryptUnder_eq, h.cb hcb]

/-- The payload of a command depends on the registers it uses alone; an index or a round number in range reads no word
above the schedule. -/
theorem SameUsed.okPayload_eq (h : SameUsed i s s') (hrange : operandOutOfRange i s = false) :
    okPayload i s = okPayload i s' := by
  cases i with simp only [okPayload]
  | addrk rk data =>
    have hrk : rk.toNat ≤ keyWords s.nk + 6 := by simpa [operandOutOfRange] using hrange
    rw [onBlock, onBlock, addRoundKey_congr (h.schedule rfl).word hrk]
  | rdrk index =>
    have hindex : index.toNat < 4 * (keyWords s.nk + 7) := by simpa [operandOutOfRange] using hrange
    rw [(h.schedule rfl).word _ hindex]
  | encblk data => rw [(h.schedule rfl).encryptUnder_eq]
  | decblk data => rw [(h.schedule rfl).decryptUnder_eq]
  | cbcencb data => rw [h.cbcEncryptBlock_eq rfl rfl]
  | cbcencf data => rw [h.cbcEncryptBlock_eq rfl rfl]
  | cbcdecb data => rw [h.cbcDecryptBlock_eq rfl rfl]
  | cbcdecf data => rw [h.cbcDecryptBlock_eq rfl rfl]
  | rdcv => rw [h.cv rfl]
  | ctrencb data => rw [h.ctrBlock_eq rfl rfl]
  | ctrencf data => rw [h.ctrBlock_eq rfl rfl]
  | ctrdecb data => rw [h.ctrBlock_eq rfl rfl]
  | ctrdecf data => rw [h.ctrBlock_eq rfl rfl]
  | rdctr => rw [h.cb rfl]

/-- What a command writes depends on the registers it uses alone. -/
theorem SameUsed.writeOf_eq (h : SameUsed i s s') : writeOf i s = writeOf i s' := by
  cases i with simp only [writeOf]
  | cbcencb data => rw [h.cbcEncryptBlock_eq rfl rfl]
  | cbcencf data => rw [h.cbcEncryptBlock_eq rfl rfl]
  | ctrencb data => rw [h.cb rfl]
  | ctrencf data => rw [h.cb rfl]
  | ctrdecb data => rw [h.cb rfl]
  | ctrdecf data => rw [h.cb rfl]

/-- Two states that agree on what a command can read are answered alike, and the same write is made in both. -/
theorem SameReads.same_outcome (h : SameReads i s s') :
    (∃ e, exec i s = raise e s ∧ exec i s' = raise e s') ∨
      expectedError i s = none ∧ exec i s = respond (okPayload i s) ((writeOf i s).apply s) ∧
        exec i s' = respond (okPayload i s) ((writeOf i s).apply s') := by
  have herr := h.expectedError_eq
  cases hs : expectedError i s with
  | some e => exact .inl ⟨e, exec_of_expectedError hs, exec_of_expectedError (herr ▸ hs)⟩
  | none =>
    obtain ⟨-, -, -, hflags, hrange, -⟩ := expectedError_eq_none_iff.1 hs
    have hused := h.sameUsed hflags
    refine .inr ⟨rfl, exec_of_no_error hs, ?_⟩
    rw [exec_of_no_error (herr ▸ hs), hused.okPayload_eq hrange, hused.writeOf_eq]

end

/-- The words of a stored schedule do not depend on the free values above it (log 2). -/
theorem wordAt_scheduleStore_eq (k : KeyLen) (words : List Word) (n n' : Nat) {j : Nat} (hj : j < scheduleLength k) :
    wordAt (scheduleStore k words n) j = wordAt (scheduleStore k words n') j := by
  rw [wordAt_scheduleStore k words n j hj, wordAt_scheduleStore k words n' j hj]

/-- The same schedule written in two states is the same schedule, whatever free values stand above it (log 2). -/
theorem sameSchedule_apply_schedule (k : KeyLen) (words : List Word) (s s' : State) :
    SameSchedule (RegWrite.apply s (.schedule k words)) (RegWrite.apply s' (.schedule k words)) := by
  simp only [RegWrite.apply]
  refine ⟨rfl, fun j hj => ?_⟩
  rw [State.setSchedule_w, State.setSchedule_w]
  exact wordAt_scheduleStore_eq k words _ _ hj

/-- KEYEXP with no error writes a schedule (R120). -/
theorem writeOf_of_writesSchedule {i : Instr} {s : State} (h : expectedError i s = none)
    (hi : writesSchedule i = true) : ∃ k words, writeOf i s = .schedule k words := by
  obtain ⟨key, rfl⟩ := eq_keyexp_of_writesSchedule hi
  obtain ⟨-, -, hkey, -⟩ := expectedError_eq_none_iff.1 h
  obtain ⟨k, hk⟩ := exists_keyLen_of_mem (hkey key rfl)
  exact ⟨k, _, writeOf_keyexp hk s⟩

theorem writeOf_of_writesCv {i : Instr} (s : State) (hi : writesCv i = true) :
    ∃ b, writeOf i s = .cv b ∨ writeOf i s = .initCv b := by
  cases i <;> simp only [writesCv, Bool.false_eq_true] at hi
  case cbcinit iv => exact ⟨_, .inr rfl⟩
  all_goals exact ⟨_, .inl rfl⟩

theorem writeOf_of_writesCvValid {i : Instr} (s : State) (hi : writesCvValid i = true) :
    ∃ b, writeOf i s = .initCv b := by
  obtain ⟨iv, rfl⟩ := eq_cbcinit_of_writesCvValid hi
  exact ⟨_, rfl⟩

theorem writeOf_of_writesCb {i : Instr} (s : State) (hi : writesCb i = true) :
    ∃ b, writeOf i s = .cb b ∨ writeOf i s = .initCb b := by
  cases i <;> simp only [writesCb, Bool.false_eq_true] at hi
  case ctrinit ctr => exact ⟨_, .inr rfl⟩
  all_goals exact ⟨_, .inl rfl⟩

theorem writeOf_of_writesCbValid {i : Instr} (s : State) (hi : writesCbValid i = true) :
    ∃ b, writeOf i s = .initCb b := by
  obtain ⟨ctr, rfl⟩ := eq_ctrinit_of_writesCbValid hi
  exact ⟨_, rfl⟩

/-- After a command with no error the registers that R36 lists as written hold what the write gives them, in whatever
state it was made. -/
theorem writeOf_determines {i : Instr} {s : State} (h : expectedError i s = none) (u u' : State) :
    (writesSchedule i = true → ((writeOf i s).apply u).ksValid = ((writeOf i s).apply u').ksValid ∧
      SameSchedule ((writeOf i s).apply u) ((writeOf i s).apply u')) ∧
    (writesCv i = true → ((writeOf i s).apply u).cv = ((writeOf i s).apply u').cv) ∧
    (writesCvValid i = true → ((writeOf i s).apply u).cvValid = ((writeOf i s).apply u').cvValid) ∧
    (writesCb i = true → ((writeOf i s).apply u).cb = ((writeOf i s).apply u').cb) ∧
    (writesCbValid i = true → ((writeOf i s).apply u).cbValid = ((writeOf i s).apply u').cbValid) := by
  refine ⟨fun hi => ?_, fun hi => ?_, fun hi => ?_, fun hi => ?_, fun hi => ?_⟩
  · obtain ⟨k, words, hw⟩ := writeOf_of_writesSchedule h hi
    rw [hw]
    exact ⟨by simp only [RegWrite.apply, State.setSchedule_ksValid], sameSchedule_apply_schedule k words u u'⟩
  · obtain ⟨b, hw | hw⟩ := writeOf_of_writesCv s hi <;> simp [hw, RegWrite.apply]
  · obtain ⟨b, hw⟩ := writeOf_of_writesCvValid s hi
    simp [hw, RegWrite.apply]
  · obtain ⟨b, hw | hw⟩ := writeOf_of_writesCb s hi <;> simp [hw, RegWrite.apply]
  · obtain ⟨b, hw⟩ := writeOf_of_writesCbValid s hi
    simp [hw, RegWrite.apply]

/-- States with the same contents in the registers a command uses agree on what it can read. -/
theorem SameReads.of_eq {i : Instr} {s s' : State}
    (hsched : usesSchedule i = true → s.w = s'.w ∧ s.nk = s'.nk ∧ s.ksValid = s'.ksValid)
    (hcv : usesCv i = true → s.cv = s'.cv ∧ s.cvValid = s'.cvValid)
    (hcb : usesCb i = true → s.cb = s'.cb ∧ s.cbValid = s'.cbValid) : SameReads i s s' where
  ksValid hi := by obtain ⟨-, -, hks⟩ := hsched hi; exact hks
  cvValid hi := (hcv hi).2
  cbValid hi := (hcb hi).2
  schedule hi _ := by obtain ⟨hw, hnk, -⟩ := hsched hi; exact ⟨hnk, fun _ _ => by rw [hw]⟩
  cv hi _ := (hcv hi).1
  cb hi _ := (hcb hi).1

/-- Settles O15: what two states agree on is all a command can read, so that one response and one write serve both. -/
theorem commandsReadOnlyTheirRegisters : Obligations.CommandsReadOnlyTheirRegisters := by
  intro i s s' t t' hsched hcv hcb hexec hexec'
  obtain ⟨e, he, he'⟩ | ⟨hnone, hok, hok'⟩ := (SameReads.of_eq hsched hcv hcb).same_outcome
  · obtain rfl := raise_eq_next.1 (he.symm.trans hexec)
    obtain rfl := raise_eq_next.1 (he'.symm.trans hexec')
    exact ⟨.error e, rfl, rfl, nofun⟩
  · obtain rfl := respond_eq_next.1 (hok.symm.trans hexec)
    obtain rfl := respond_eq_next.1 (hok'.symm.trans hexec')
    obtain ⟨hschedule, hwritten⟩ := writeOf_determines hnone s s'
    refine ⟨.ok (okPayload i s), by simp, by simp, fun _ => ⟨fun hi => ?_, hwritten⟩⟩
    obtain ⟨hks, hsame⟩ := hschedule hi
    exact ⟨hsame.nk, hks, hsame.word⟩

/-- States that no command can tell apart agree on what each command can read. -/
theorem SameVisible.sameReads {s s' : State} (h : SameVisible s s') (i : Instr) : SameReads i s s' where
  ksValid _ := h.ksValid
  cvValid _ := h.cvValid
  cbValid _ := h.cbValid
  schedule _ hks := ⟨h.nk hks, h.w hks⟩
  cv _ := h.cv
  cb _ := h.cb

theorem SameVisible.answer {s s' : State} (h : SameVisible s s') (r : Response) :
    SameVisible (s.answer r) (s'.answer r) where
  ksValid := h.ksValid
  cvValid := h.cvValid
  cbValid := h.cbValid
  nk := h.nk
  w := h.w
  cv := h.cv
  cb := h.cb
  inbox := h.inbox
  outbox := congrArg (· ++ [r]) h.outbox

/-- A schedule written in both, its words the same as far as it goes. -/
theorem SameVisible.setSchedule {s s' : State} (h : SameVisible s s') {k : KeyLen} {store store' : Vector Word 60}
    (hstore : ∀ j < scheduleLength k, wordAt store j = wordAt store' j) :
    SameVisible (s.setSchedule store k) (s'.setSchedule store' k) :=
  { h with ksValid := rfl, nk := fun _ => rfl, w := fun _ => hstore }

/-- The same write in both: a register written is the same, and one that is not is as it was. -/
theorem SameVisible.apply {s s' : State} (h : SameVisible s s') (wr : RegWrite) :
    SameVisible (wr.apply s) (wr.apply s') := by
  cases wr with
  | nothing => exact h
  | schedule k words =>
    exact h.setSchedule fun _ => wordAt_scheduleStore_eq k words _ _
  | cv b => exact { h with cv := fun _ => rfl }
  | initCv b => exact { h with cvValid := rfl, cv := fun _ => rfl }
  | cb b => exact { h with cb := fun _ => rfl }
  | initCb b => exact { h with cbValid := rfl, cb := fun _ => rfl }

/-- A command takes states that cannot be told apart to states that cannot be told apart. -/
theorem SameVisible.exec {s s' t : State} (h : SameVisible s s') {i : Instr} (hexec : exec i s = .next t) :
    ∃ t', Machine.exec i s' = .next t' ∧ SameVisible t t' := by
  obtain ⟨e, he, he'⟩ | ⟨-, hok, hok'⟩ := (h.sameReads i).same_outcome
  · obtain rfl := raise_eq_next.1 (he.symm.trans hexec)
    exact ⟨_, he', h.answer _⟩
  · obtain rfl := respond_eq_next.1 (hok.symm.trans hexec)
    exact ⟨_, hok', (h.apply _).answer _⟩

/-- Taking an event leaves what commands can see. -/
theorem SameVisible.withInbox {s s' : State} (h : SameVisible s s') (rest : List HostEvent) :
    SameVisible { s with inbox := rest } { s' with inbox := rest } :=
  { h with inbox := rfl }

/-- After a reset event no flag lets a command read a register (R34). -/
theorem sameVisible_reset {s s' : State} (h : SameVisible s s') (rest : List HostEvent) :
    SameVisible { State.reset with staleCount := s.staleCount, inbox := rest, outbox := s.outbox }
      { State.reset with staleCount := s'.staleCount, inbox := rest, outbox := s'.outbox } where
  ksValid := rfl
  cvValid := rfl
  cbValid := rfl
  nk _ := rfl
  w _ _ _ := rfl
  cv _ := rfl
  cb _ := rfl
  inbox := rfl
  outbox := h.outbox

/-- Settles O19: the two states take the same event, and each kind of event keeps them from being told apart. -/
theorem unsetValuesAreNeverObserved : Obligations.UnsetValuesAreNeverObserved := by
  intro s s' t hsame hstep
  obtain ⟨hin, rfl⟩ | ⟨rest, hin, rfl⟩ | ⟨bytes, rest, i, hin, hdec, hexec⟩ | ⟨bytes, rest, r, hin, hdec, rfl⟩ :=
    step_eq_next.1 hstep
  · exact ⟨s', step_of_inbox_nil (hsame.inbox ▸ hin), hsame⟩
  · exact ⟨_, step_of_reset (hsame.inbox ▸ hin), sameVisible_reset hsame rest⟩
  · obtain ⟨t', hexec', ht⟩ := (hsame.withInbox rest).exec hexec
    exact ⟨t', (step_of_decode_ok (hsame.inbox ▸ hin) hdec).trans hexec', ht⟩
  · exact ⟨_, step_of_decode_error (hsame.inbox ▸ hin) hdec, (hsame.withInbox rest).answer _⟩

end Sys2Proof.Machine
end

section
/-! PROOFS. The key schedule and the commands KEYEXP and RDRK (42_key_schedule.md R120 to R124). -/

namespace Sys2Proof.Machine

/-- The word that step `i` of the expansion appends to the words `ws`, with the round constant `c` (R121). -/
def nextWord (nk : Nat) (c : Byte) (ws : List Word) (i : Nat) : Word :=
  ws.getD (i - nk) 0 ^^^ scheduleTemp nk i c (ws.getD (i - 1) 0)

theorem expandFrom_succ (nk n : Nat) (c : Byte) (ws : List Word) :
    expandFrom nk (n + 1) c ws = expandFrom nk n (nextConstant nk ws.length c) (ws ++ [nextWord nk c ws ws.length]) :=
  rfl

/-- The expansion only appends: the words it starts from stay. -/
theorem getD_expandFrom_of_lt (nk n : Nat) (c : Byte) {ws : List Word} {i : Nat} (h : i < ws.length) :
    (expandFrom nk n c ws).getD i 0 = ws.getD i 0 := by
  induction n generalizing c ws with
  | zero => rfl
  | succ n ih =>
    rw [expandFrom_succ, ih _ (by rw [List.length_append]; omega), List.getD_append _ _ _ _ h]

/-- The round constant held when `len` words are built, `len` ≥ 1: the one for the next boundary (R121, R122). -/
def constantAt (nk len : Nat) : Byte := doubledOne ((len - 1) / nk)

theorem nextConstant_constantAt {nk len : Nat} (hlen : 0 < len) :
    nextConstant nk len (constantAt nk len) = constantAt nk (len + 1) := by
  obtain ⟨m, rfl⟩ := Nat.exists_eq_add_of_le' hlen
  rw [nextConstant, constantAt, constantAt, Nat.add_sub_cancel, Nat.add_sub_cancel, Nat.succ_div]
  split <;> simp_all [doubledOne, Nat.dvd_iff_mod_eq_zero]

/-- At a boundary the constant held is the boundary's own (R104, R121). -/
theorem constantAt_of_mod_eq_zero {nk i : Nat} (hi : 0 < i) (h : i % nk = 0) :
    constantAt nk i = rc (i / nk) := by
  obtain ⟨m, rfl⟩ := Nat.exists_eq_add_of_le' hi
  rw [constantAt, rc, Nat.add_sub_cancel, Nat.succ_div, if_pos (Nat.dvd_of_mod_eq_zero h), Nat.add_sub_cancel]

/-- A word is appended from words before it. -/
theorem nextWord_congr {nk i : Nat} (hnk : 0 < nk) (hi : 0 < i) (c : Byte) {ws ws' : List Word}
    (h : ∀ j < i, ws.getD j 0 = ws'.getD j 0) : nextWord nk c ws i = nextWord nk c ws' i := by
  rw [nextWord, nextWord, h _ (by omega), h _ (by omega)]

/-- Every word appended is the recurrence's, taken on the finished list. -/
theorem getD_expandFrom_of_ge {nk : Nat} (hnk : 0 < nk) (n : Nat) {ws : List Word} (hws : nk ≤ ws.length) {i : Nat}
    (hge : ws.length ≤ i) (hlt : i < ws.length + n) :
    (expandFrom nk n (constantAt nk ws.length) ws).getD i 0 =
      nextWord nk (constantAt nk i) (expandFrom nk n (constantAt nk ws.length) ws) i := by
  induction n generalizing ws with
  | zero => omega
  | succ n ih =>
    obtain rfl | hgt := Nat.eq_or_lt_of_le hge
    · rw [nextWord_congr hnk (by omega) _ fun j hj => getD_expandFrom_of_lt nk (n + 1) _ hj, expandFrom_succ,
        getD_expandFrom_of_lt _ _ _ (by simp), List.getD_append_right _ _ _ _ le_rfl, Nat.sub_self]
      rfl
    · have hlen : (ws ++ [nextWord nk (constantAt nk ws.length) ws ws.length]).length = ws.length + 1 := by simp
      rw [expandFrom_succ, nextConstant_constantAt (by omega), ← hlen]
      exact ih (by omega) (by omega) (by omega)

@[simp] theorem length_keyToWords (key : List Byte) (nk : Nat) : (keyToWords key nk).length = nk := by
  simp [keyToWords]

theorem take_four_drop {l : List Byte} {n : Nat} (h : n + 4 ≤ l.length) :
    (l.drop n).take 4 = [l.getD n 0, l.getD (n + 1) 0, l.getD (n + 2) 0, l.getD (n + 3) 0] := by
  rw [List.drop_eq_getElem_cons (by omega), List.drop_eq_getElem_cons (by omega), List.drop_eq_getElem_cons (by omega),
    List.drop_eq_getElem_cons (by omega)]
  simp only [List.take_succ_cons, List.take_zero, List.getD_eq_getElem?_getD, add_assoc, Nat.reduceAdd]
  simp (disch := omega) only [List.getElem?_eq_getElem, Option.getD_some]

/-- Pieces of `c` bytes each, put together again. -/
theorem flatMap_range_take_drop (c n : Nat) (l : List Byte) :
    (List.range n).flatMap (fun k => (l.drop (c * k)).take c) = l.take (c * n) := by
  induction n with
  | zero => simp
  | succ n ih => rw [List.range_succ, List.flatMap_append, ih, List.flatMap_singleton, Nat.mul_succ, List.take_add]

/-- The key words are the key's bytes, four to a word (R52, R121). -/
theorem wordBytes_getD_keyToWords {key : List Byte} {nk i : Nat} (hlen : key.length = 4 * nk) (hi : i < nk) :
    wordBytes ((keyToWords key nk).getD i 0) = (key.drop (4 * i)).take 4 := by
  rw [take_four_drop (by omega), List.getD_eq_getElem _ _ (by simpa)]
  simp only [keyToWords, List.getElem_map, List.getElem_range, wordBytes_wordOfBytes]

section
variable {nk : Nat} (hnk : 0 < nk) (key : List Byte)

/-- The schedule starts with the key words (R121). -/
theorem getD_expand_of_lt {i : Nat} (hi : i < nk) : (expand key nk).getD i 0 = (keyToWords key nk).getD i 0 :=
  getD_expandFrom_of_lt _ _ _ (by rwa [length_keyToWords])

include hnk

/-- The words after them follow the recurrence (R121). -/
theorem getD_expand_of_ge {i : Nat} (hge : nk ≤ i) (hlt : i < 4 * (nk + 7)) :
    (expand key nk).getD i 0 = nextWord nk (constantAt nk i) (expand key nk) i := by
  have hstart : (0x01 : Byte) = constantAt nk (keyToWords key nk).length := by
    rw [length_keyToWords, constantAt, Nat.div_eq_of_lt (by omega)]
    rfl
  rw [expand, hstart]
  exact getD_expandFrom_of_ge hnk _ (by simp) (by simpa) (by simp; omega)

end

theorem keyWords_pos (k : KeyLen) : 0 < keyWords k := by cases k <;> decide

theorem keyWords_le_scheduleLength (k : KeyLen) : keyWords k ≤ scheduleLength k := by cases k <;> decide

/-- KEYEXP of a legal key stores its expansion (R120). -/
theorem exec_keyexp_of_length {k : KeyLen} {key : List Byte} (h : key.length = 4 * keyWords k) (s : State) :
    exec (.keyexp key) s =
      respond [] (s.setSchedule (scheduleStore k (expand key (keyWords k)) s.staleCount) k) := by
  rw [exec, execKeyexp, withKey_of_length h]

/-- `temp` of step `i` with the constant of its boundary (R121). -/
theorem scheduleTemp_constantAt {nk i : Nat} (hi : 0 < i) (prev : Word) :
    scheduleTemp nk i (constantAt nk i) prev =
      if i % nk = 0 then subWord (rotWord prev) ^^^ rcon (i / nk)
      else if nk = 8 ∧ i % nk = 4 then subWord prev
      else prev := by
  rw [scheduleTemp]
  split
  · next h => rw [constantAt_of_mod_eq_zero hi h, rcon]
  · rfl

section
variable {k : KeyLen} {key : List Byte} (n : Nat)

/-- The stored schedule starts with the key's bytes (R120, R121). -/
theorem wordBytes_scheduleStore_of_lt (h : key.length = 4 * keyWords k) {i : Nat} (hi : i < keyWords k) :
    wordBytes (wordAt (scheduleStore k (expand key (keyWords k)) n) i) = (key.drop (4 * i)).take 4 := by
  have := keyWords_le_scheduleLength k
  rw [wordAt_scheduleStore _ _ _ _ (by omega), getD_expand_of_lt key hi, wordBytes_getD_keyToWords h hi]

/-- The stored schedule follows the recurrence (R120, R121). -/
theorem wordAt_scheduleStore_of_ge {i : Nat} (hge : keyWords k ≤ i) (hlt : i < scheduleLength k) :
    wordAt (scheduleStore k (expand key (keyWords k)) n) i =
      wordAt (scheduleStore k (expand key (keyWords k)) n) (i - keyWords k) ^^^
        scheduleTemp (keyWords k) i (constantAt (keyWords k) i)
          (wordAt (scheduleStore k (expand key (keyWords k)) n) (i - 1)) := by
  have := keyWords_pos k
  rw [wordAt_scheduleStore _ _ _ i hlt, wordAt_scheduleStore _ _ _ (i - keyWords k) (by omega),
    wordAt_scheduleStore _ _ _ (i - 1) (by omega), getD_expand_of_ge this key hge hlt, nextWord]

end

/-- Settles O36: the store is the expansion, whose words are the key's and then those of the recurrence. -/
theorem keyexpBuildsTheSchedule : Obligations.KeyexpBuildsTheSchedule := by
  intro k key s hlen
  have hpos := keyWords_pos k
  refine ⟨_, exec_keyexp_of_length hlen s, ?_⟩
  simp only [State.answer_w, State.answer_nk, State.answer_ksValid, State.answer_cv, State.answer_cvValid,
    State.answer_cb, State.answer_cbValid, State.answer_inbox, State.answer_outbox, State.setSchedule_w,
    State.setSchedule_nk, State.setSchedule_ksValid, State.setSchedule_cv, State.setSchedule_cvValid,
    State.setSchedule_cb, State.setSchedule_cbValid, State.setSchedule_inbox, State.setSchedule_outbox, true_and]
  exact ⟨fun i hi => wordBytes_scheduleStore_of_lt _ hlen hi, fun i hge hlt => by
    rw [wordAt_scheduleStore_of_ge _ hge hlt, scheduleTemp_constantAt (by omega)]⟩

/-- Settles O37: the words stored are the expansion of the key, whatever the state; RDRK checks the flag and then the
index. -/
theorem rdrkReadsTheSchedule : Obligations.RdrkReadsTheSchedule := by
  refine ⟨fun k key s s' t t' hlen hexec hexec' => ?_, fun i s hks => ?_, fun i s hks => ⟨fun hi => ?_, fun hi => ?_⟩⟩
  · obtain rfl := respond_eq_next.1 ((exec_keyexp_of_length hlen s).symm.trans hexec)
    obtain rfl := respond_eq_next.1 ((exec_keyexp_of_length hlen s').symm.trans hexec')
    simp only [State.answer_nk, State.answer_w, State.setSchedule_nk, State.setSchedule_w, true_and]
    exact fun i hi => wordAt_scheduleStore_eq k _ _ _ hi
  · rw [exec, execRdrk, needSchedule, if_pos hks, raise]
  · rw [exec, execRdrk, needSchedule_of_valid hks, if_neg (by rw [scheduleLength]; omega), respond]
  · rw [exec, execRdrk, needSchedule_of_valid hks, if_pos (by rw [scheduleLength]; omega), raise]

end Sys2Proof.Machine
end

section
/-! PROOFS. The invariant: a valid schedule is the expansion of its key, and every response fits (10_state.md R20, R22;
30_encoding.md R76). -/

namespace Sys2Proof.Machine

/-- The key can be read back from a stored schedule (R123 (b)). -/
theorem keyInStore_setSchedule {k : KeyLen} {key : List Byte} (h : key.length = 4 * keyWords k) (s : State) (n : Nat) :
    keyInStore (s.setSchedule (scheduleStore k (expand key (keyWords k)) n) k) = key := by
  rw [keyInStore, State.setSchedule_nk, State.setSchedule_w]
  calc (List.range (keyWords k)).flatMap
        (fun i => wordBytes (wordAt (scheduleStore k (expand key (keyWords k)) n) i))
      = (List.range (keyWords k)).flatMap (fun i => (key.drop (4 * i)).take 4) :=
        List.flatMap_congr fun i hi => wordBytes_scheduleStore_of_lt n h (List.mem_range.1 hi)
    _ = key := by rw [flatMap_range_take_drop, ← h, List.take_length]

/-- KEYEXP leaves a complete schedule (R120). -/
theorem scheduleComplete_setSchedule {k : KeyLen} {key : List Byte} (h : key.length = 4 * keyWords k) (s : State)
    (n : Nat) : ScheduleComplete (s.setSchedule (scheduleStore k (expand key (keyWords k)) n) k) := by
  intro _ i hi
  rw [keyInStore_setSchedule h, State.setSchedule_nk, State.setSchedule_w]
  exact wordAt_scheduleStore k _ n i hi

/-- The invariant of the schedule looks at W, NK and KS_VALID only. -/
theorem ScheduleComplete.congr {s t : State} (h : ScheduleComplete s) (hw : t.w = s.w) (hnk : t.nk = s.nk)
    (hks : t.ksValid = s.ksValid) : ScheduleComplete t := by
  rw [ScheduleComplete, keyInStore, hw, hnk, hks]
  exact h

/-- An OK payload of any form fits in a response (R76). -/
theorem responseFits_of_hasForm {form : PayloadForm} {r : Response} (h : ∀ p, r = .ok p → hasForm form p = true) :
    responseFits r = true := by
  cases r with
  | error e => rfl
  | ok p =>
    have := length_of_hasForm (h p rfl)
    exact decide_eq_true (by omega)

/-- The write of a command keeps the schedule complete: only KEYEXP writes it, and it writes a whole one. -/
theorem scheduleComplete_apply_writeOf {i : Instr} {s : State} (herr : expectedError i s = none)
    (h : ScheduleComplete s) : ScheduleComplete ((writeOf i s).apply s) := by
  cases hi : writesSchedule i with
  | false =>
    obtain ⟨hframe, -⟩ := RegWrite.frame (writeOf_allowedFor i s) s
    obtain ⟨hw, hnk, hks, -⟩ := hframe hi
    exact h.congr hw hnk hks
  | true =>
    obtain ⟨key, rfl⟩ := eq_keyexp_of_writesSchedule hi
    obtain ⟨-, -, hkey, -⟩ := expectedError_eq_none_iff.1 herr
    obtain ⟨k, hk⟩ := exists_keyLen_of_mem (hkey key rfl)
    rw [writeOf_keyexp hk, RegWrite.apply]
    exact scheduleComplete_setSchedule hk s s.staleCount

theorem exec_scheduleComplete {i : Instr} {s t : State} (hexec : exec i s = .next t) (h : ScheduleComplete s) :
    ScheduleComplete t := by
  obtain ⟨e, -, rfl⟩ | ⟨hnone, rfl⟩ := exec_eq_next.1 hexec
  · exact h.congr rfl rfl rfl
  · exact (scheduleComplete_apply_writeOf hnone h).congr rfl rfl rfl

theorem exec_responses {i : Instr} {s t : State} (hexec : exec i s = .next t)
    (h : ∀ r ∈ s.outbox, responseFits r = true) : ∀ r ∈ t.outbox, responseFits r = true := by
  obtain ⟨u, r, hu, hout, -, hform⟩ := exec_answers i s
  obtain rfl : t = u := Host.Outcome.next.inj (hexec.symm.trans hu)
  simp only [hout, List.forall_mem_append, List.forall_mem_singleton]
  exact ⟨h, responseFits_of_hasForm hform⟩

/-- Settles O18: no flag is set and nothing has been answered. -/
theorem invHoldsAtReset : Obligations.InvHoldsAtReset := ⟨nofun, nofun⟩

/-- Settles O17: a command keeps the schedule complete and answers one response that fits; a reset event clears
KS_VALID; a request that is no command changes no register. -/
theorem invKeptByEveryStep : Obligations.InvKeptByEveryStep := by
  intro s t hinv hstep
  obtain ⟨hsched, hresp⟩ := hinv
  obtain ⟨-, rfl⟩ | ⟨rest, -, rfl⟩ | ⟨bytes, rest, i, -, -, hexec⟩ | ⟨bytes, rest, r, -, -, rfl⟩ := step_eq_next.1 hstep
  · exact ⟨hsched, hresp⟩
  · exact ⟨nofun, hresp⟩
  · exact ⟨exec_scheduleComplete hexec (hsched.congr rfl rfl rfl), exec_responses hexec hresp⟩
  · refine ⟨hsched.congr rfl rfl rfl, ?_⟩
    simp only [State.answer_outbox, List.forall_mem_append, List.forall_mem_singleton]
    exact ⟨hresp, rfl⟩

end Sys2Proof.Machine
end

section
/-! PROOFS. The field multiplier: it is the product of polynomials modulo the field polynomial, and the field's laws
(40_gf_arithmetic.md R100 to R103). -/

namespace Sys2Proof.Machine

section
variable {n : Nat}

/-- A term added when a bit of a sum is set is added once for each part that has the bit. -/
theorem ite_xor_condition (x y : Bool) (p q c : BitVec n) :
    (if (x ^^ y) = true then p ^^^ q ^^^ c else p ^^^ q) =
      (if x = true then p ^^^ c else p) ^^^ (if y = true then q ^^^ c else q) := by
  have hcancel : p ^^^ c ^^^ (q ^^^ c) = p ^^^ q := by
    rw [BitVec.xor_comm q c, BitVec.xor_assoc, ← BitVec.xor_assoc c, BitVec.xor_self, BitVec.zero_xor]
  cases x <;> cases y <;> simp [hcancel, BitVec.xor_assoc, BitVec.xor_comm c q]

/-- A sum added under a condition is the sum of its parts added under it. -/
theorem ite_xor_term (x : Bool) (p q c d : BitVec n) :
    (if x = true then p ^^^ q ^^^ (c ^^^ d) else p ^^^ q) =
      (if x = true then p ^^^ c else p) ^^^ (if x = true then q ^^^ d else q) := by
  cases x
  · rfl
  · simp only [if_true]
    ac_rfl

end

/-- Addition in the field is XOR: `f` takes sums to sums. -/
def IsAdditive {m n : Nat} (f : BitVec m → BitVec n) : Prop := ∀ x y, f (x ^^^ y) = f x ^^^ f y

/-- The byte with bit `k` alone: x^k as a polynomial. -/
def monomial (k : Fin 8) : Byte := 1 <<< k.val

/-- A byte is the sum of the monomials of its bits. -/
theorem byte_eq_sum_monomials (b : Byte) :
    b = (if b.getLsbD 0 then monomial 0 else 0) ^^^ (if b.getLsbD 1 then monomial 1 else 0) ^^^
      (if b.getLsbD 2 then monomial 2 else 0) ^^^ (if b.getLsbD 3 then monomial 3 else 0) ^^^
      (if b.getLsbD 4 then monomial 4 else 0) ^^^ (if b.getLsbD 5 then monomial 5 else 0) ^^^
      (if b.getLsbD 6 then monomial 6 else 0) ^^^ (if b.getLsbD 7 then monomial 7 else 0) := by
  revert b
  decide

theorem IsAdditive.map_zero {m n : Nat} {f : BitVec m → BitVec n} (hf : IsAdditive f) : f 0 = 0 := by
  have h := hf 0 0
  rwa [BitVec.xor_self, BitVec.xor_self] at h

/-- Additive functions that agree on the monomials agree on every byte. -/
theorem IsAdditive.ext {n : Nat} {f g : Byte → BitVec n} (hf : IsAdditive f) (hg : IsAdditive g)
    (h : ∀ k, f (monomial k) = g (monomial k)) (b : Byte) : f b = g b := by
  have hterm : ∀ (x : Bool) (k : Fin 8),
      f (if x = true then monomial k else 0) = g (if x = true then monomial k else 0) := by
    intro x k
    cases x
    · exact hf.map_zero.trans hg.map_zero.symm
    · exact h k
  rw [byte_eq_sum_monomials b]
  simp only [hf _ _, hg _ _, hterm]

/-- Doubling is additive (R103). -/
theorem xtime_xor (a b : Byte) : xtime (a ^^^ b) = xtime a ^^^ xtime b := by
  rw [xtime, BitVec.getLsbD_xor, BitVec.shiftLeft_xor_distrib]
  exact ite_xor_condition ..

/-- The multiplier's loop is additive in the accumulator and the first operand together. -/
theorem gfmulLoop_xor_left (n : Nat) (p p' a a' b : Byte) :
    gfmulLoop n (p ^^^ p') (a ^^^ a') b = gfmulLoop n p a b ^^^ gfmulLoop n p' a' b := by
  induction n generalizing p p' a a' b with
  | zero => rfl
  | succ n ih => rw [gfmulLoop, gfmulLoop, gfmulLoop, xtime_xor, ite_xor_term, ih]

/-- The multiplier's loop is additive in the accumulator and the second operand together. -/
theorem gfmulLoop_xor_right (n : Nat) (p p' a b b' : Byte) :
    gfmulLoop n (p ^^^ p') a (b ^^^ b') = gfmulLoop n p a b ^^^ gfmulLoop n p' a b' := by
  induction n generalizing p p' a b b' with
  | zero => rfl
  | succ n ih =>
    rw [gfmulLoop, gfmulLoop, gfmulLoop, BitVec.getLsbD_xor, BitVec.ushiftRight_xor_distrib, ite_xor_condition, ih]

theorem gfmul_xor (a b c : Byte) : gfmul a (b ^^^ c) = gfmul a b ^^^ gfmul a c := gfmulLoop_xor_right 8 0 0 a b c

theorem xor_gfmul (a b c : Byte) : gfmul (a ^^^ b) c = gfmul a c ^^^ gfmul b c := gfmulLoop_xor_left 8 0 0 a b c

/-- Products are symmetric, since those of monomials are (R102). -/
theorem gfmul_comm (a b : Byte) : gfmul a b = gfmul b a := by
  have hmonomials : ∀ j k, gfmul (monomial j) (monomial k) = gfmul (monomial k) (monomial j) := by decide
  refine IsAdditive.ext (f := fun a => gfmul a b) (g := fun a => gfmul b a) (fun x y => xor_gfmul x y b)
    (fun x y => gfmul_xor b x y) (fun j => ?_) a
  exact IsAdditive.ext (f := fun b => gfmul (monomial j) b) (g := fun b => gfmul b (monomial j))
    (fun x y => gfmul_xor _ x y) (fun x y => xor_gfmul x y _) (fun k => hmonomials j k) b

/-- Products are associative, since those of monomials are (R102). -/
theorem gfmul_assoc (a b c : Byte) : gfmul (gfmul a b) c = gfmul a (gfmul b c) := by
  have hmonomials : ∀ i j k, gfmul (gfmul (monomial i) (monomial j)) (monomial k) =
      gfmul (monomial i) (gfmul (monomial j) (monomial k)) := by decide +kernel
  refine IsAdditive.ext (f := fun a => gfmul (gfmul a b) c) (g := fun a => gfmul a (gfmul b c))
    (fun x y => by simp only [xor_gfmul]) (fun x y => xor_gfmul ..) (fun i => ?_) a
  refine IsAdditive.ext (f := fun b => gfmul (gfmul (monomial i) b) c) (g := fun b => gfmul (monomial i) (gfmul b c))
    (fun x y => by simp only [xor_gfmul, gfmul_xor]) (fun x y => by simp only [xor_gfmul, gfmul_xor]) (fun j => ?_) b
  exact IsAdditive.ext (f := fun c => gfmul (gfmul (monomial i) (monomial j)) c)
    (g := fun c => gfmul (monomial i) (gfmul (monomial j) c))
    (fun x y => gfmul_xor ..) (fun x y => by simp only [gfmul_xor]) (hmonomials i j) c

theorem gfmul_left_comm (a b c : Byte) : gfmul a (gfmul b c) = gfmul b (gfmul a c) := by
  rw [← gfmul_assoc, gfmul_comm a b, gfmul_assoc]

@[simp] theorem gfmul_one (a : Byte) : gfmul a 1#8 = a :=
  calc gfmul a 1#8 = 0#8 ^^^ a := rfl
    _ = a := BitVec.zero_xor

@[simp] theorem gfmul_zero (a : Byte) : gfmul a 0#8 = 0#8 := rfl

@[simp] theorem one_gfmul (a : Byte) : gfmul 1#8 a = a := by rw [gfmul_comm, gfmul_one]

@[simp] theorem zero_gfmul (a : Byte) : gfmul 0#8 a = 0#8 := by rw [gfmul_comm, gfmul_zero]

/-- The multiplicative inverse of a byte, 0 for 0, read off the S-box by undoing its affine map (R43). -/
def gfInverse (a : Byte) : Byte :=
  (sbox a).rotateLeft 1 ^^^ (sbox a).rotateLeft 3 ^^^ (sbox a).rotateLeft 6 ^^^ 0x05

theorem gfmul_gfInverse {a : Byte} (h : a ≠ 0) : gfmul a (gfInverse a) = 1#8 := by
  revert a
  decide

/-- An inverse is the only one: multiply by it (R102). -/
theorem eq_of_gfmul_eq_one {a x y : Byte} (hx : gfmul a x = 1#8) (hy : gfmul a y = 1#8) : y = x :=
  calc y = gfmul (gfmul a x) y := by rw [hx, one_gfmul]
    _ = gfmul x (gfmul a y) := by rw [gfmul_comm a x, gfmul_assoc]
    _ = x := by rw [hy, gfmul_one]

/-- Settles O21: the multiplier is additive in each operand, so that its laws need a look at the monomials only. -/
theorem galoisFieldLaws : Obligations.GaloisFieldLaws :=
  ⟨fun a => ⟨gfmul_one a, gfmul_zero a, one_gfmul a, zero_gfmul a⟩, gfmul_comm, gfmul_assoc, gfmul_xor,
    fun a ha => ⟨gfInverse a, gfmul_gfInverse ha, fun _ hy => eq_of_gfmul_eq_one (gfmul_gfInverse ha) hy⟩⟩

/-- A fold of additive steps is additive. -/
theorem foldl_xor {α : Type} {n : Nat} {f g h : BitVec n → α → BitVec n}
    (hstep : ∀ p q k, f (p ^^^ q) k = g p k ^^^ h q k) (ks : List α) (p q : BitVec n) :
    ks.foldl f (p ^^^ q) = ks.foldl g p ^^^ ks.foldl h q := by
  induction ks generalizing p q with
  | nil => rfl
  | cons k ks ih => rw [List.foldl_cons, List.foldl_cons, List.foldl_cons, hstep, ih]

theorem polyProduct_xor (a b c : Byte) : polyProduct a (b ^^^ c) = polyProduct a b ^^^ polyProduct a c :=
  foldl_xor (fun p q k => by rw [BitVec.getLsbD_xor, ite_xor_condition]) (List.range 8) 0 0

theorem xor_polyProduct (a b c : Byte) : polyProduct (a ^^^ b) c = polyProduct a c ^^^ polyProduct b c :=
  foldl_xor (fun p q k => by
    rw [BitVec.zeroExtend, BitVec.setWidth_xor, BitVec.shiftLeft_xor_distrib, ite_xor_term]) (List.range 8) 0 0

theorem polyReduce_xor (p q : BitVec 16) : polyReduce (p ^^^ q) = polyReduce p ^^^ polyReduce q := by
  rw [polyReduce, foldl_xor (fun p q k => by rw [BitVec.getLsbD_xor, ite_xor_condition]), BitVec.truncate,
    BitVec.setWidth_xor]
  rfl

/-- The multiplier computes the product of polynomials reduced by the field polynomial: both are additive in each
operand and agree on the monomials (R100). -/
theorem gfmul_eq_polyReduce_polyProduct (a b : Byte) : gfmul a b = polyReduce (polyProduct a b) := by
  have hmonomials : ∀ j k, gfmul (monomial j) (monomial k) = polyReduce (polyProduct (monomial j) (monomial k)) := by
    decide +kernel
  refine IsAdditive.ext (f := fun a => gfmul a b) (g := fun a => polyReduce (polyProduct a b))
    (fun x y => xor_gfmul x y b) (fun x y => by simp only [xor_polyProduct, polyReduce_xor]) (fun j => ?_) a
  exact IsAdditive.ext (g := fun b => polyReduce (polyProduct (monomial j) b)) (gfmul_xor (monomial j))
    (fun x y => by simp only [polyProduct_xor, polyReduce_xor]) (hmonomials j) b

/-- Settles O20: GFMUL answers the multiplier's product, which is the reduced product of polynomials. -/
theorem gfmulIsPolynomialProduct : Obligations.GfmulIsPolynomialProduct := fun a b s => by
  rw [exec, execGfmul, respond, gfmul_eq_polyReduce_polyProduct]

/-- Doubling is multiplication by 2 (R103). -/
theorem gfmul_two_left (a : Byte) : gfmul 2 a = xtime a :=
  calc gfmul 2 a = gfmul a 2 := gfmul_comm 2 a
    _ = 0#8 ^^^ xtime a := rfl
    _ = xtime a := BitVec.zero_xor

/-- A product by twice a constant is the doubled product (R103). -/
theorem gfmul_xtime_left (c a : Byte) : gfmul (xtime c) a = xtime (gfmul c a) := by
  rw [← gfmul_two_left, gfmul_assoc, gfmul_two_left]

/-- A product by a constant plus 1 is the product plus the byte (R103). -/
theorem gfmul_xor_one_left (c a : Byte) : gfmul (c ^^^ 1#8) a = gfmul c a ^^^ a := by
  rw [xor_gfmul, one_gfmul]

/-- Doubling as a shift and a conditional XOR with 0x1B (R103). -/
theorem xtime_eq_shiftLeft_xor (a : Byte) : xtime a = (a <<< 1) ^^^ (if a.getLsbD 7 then 0x1b else 0x00) := by
  rw [xtime]
  split
  · rfl
  · exact BitVec.xor_zero.symm

/-- Settles O22: each constant is made from 1 by doubling and adding 1, and the product by it in the same way. -/
theorem doublingForms : Obligations.DoublingForms := by
  intro a
  have h3 : (3 : Byte) = xtime 1#8 ^^^ 1#8 := by decide
  have h9 : (9 : Byte) = xtime (xtime (xtime 1#8)) ^^^ 1#8 := by decide
  have h11 : (11 : Byte) = xtime (xtime (xtime 1#8) ^^^ 1#8) ^^^ 1#8 := by decide
  have h13 : (13 : Byte) = xtime (xtime (xtime 1#8 ^^^ 1#8)) ^^^ 1#8 := by decide
  have h14 : (14 : Byte) = xtime (xtime (xtime 1#8 ^^^ 1#8) ^^^ 1#8) := by decide
  refine ⟨(gfmul_two_left a).symm, xtime_eq_shiftLeft_xor a, ?_⟩
  rw [h3, h9, h11, h13, h14]
  simp only [gfmul_xor_one_left, gfmul_xtime_left, one_gfmul, and_self]

end Sys2Proof.Machine
end

section
/-! PROOFS. The substitution tables and the word units, with the commands SBOX, ISBOX, SUBW and ROTW
(20_memory.md R43, R46; 41_sbox_units.md R110 to R116). -/

namespace Sys2Proof.Machine

/-- The S-box has no fixed point and takes no byte to its complement (R46). -/
theorem sbox_ne (a : Byte) : sbox a ≠ a ∧ sbox a ≠ a ^^^ 0xff := by
  revert a
  decide

/-- Settles O24: the two tables are inverse, and each entry of SBOX is looked at. -/
theorem substitutionTables : Obligations.SubstitutionTables :=
  ⟨fun _ _ h => Function.LeftInverse.injective isbox_sbox h, fun b => ⟨isbox b, sbox_isbox b⟩,
    fun a => ⟨isbox_sbox a, sbox_isbox a, sbox_ne a⟩, rfl, rfl,
    fun a s => ⟨rfl, rfl, by rw [exec, execIsbox, isbox_sbox, respond]⟩⟩

/-- The S-box is the affine map of the inverse (R43). -/
theorem sboxAffine_gfInverse (a : Byte) : sboxAffine (gfInverse a) = sbox a := by
  revert a
  decide

/-- Settles O25: the inverse is unique, and the table was made from it. -/
theorem sboxIsAffineOfInverse : Obligations.SboxIsAffineOfInverse := by
  intro a x s hzero hinv
  have hx : x = gfInverse a := by
    by_cases ha : a = 0
    · rw [hzero ha, ha]
      rfl
    · exact eq_of_gfmul_eq_one (gfmul_gfInverse ha) (hinv ha)
  rw [hx, sboxAffine_gfInverse]
  rfl

theorem subWord_wordOfBytes (b0 b1 b2 b3 : Byte) :
    subWord (wordOfBytes b0 b1 b2 b3) = wordOfBytes (sbox b0) (sbox b1) (sbox b2) (sbox b3) := by
  simp [subWord]

theorem rotWord_wordOfBytes (b0 b1 b2 b3 : Byte) : rotWord (wordOfBytes b0 b1 b2 b3) = wordOfBytes b1 b2 b3 b0 := by
  simp [rotWord]

theorem exists_wordOfBytes (w : Word) : ∃ b0 b1 b2 b3, w = wordOfBytes b0 b1 b2 b3 :=
  ⟨_, _, _, _, (wordOfBytes_wordByte w).symm⟩

/-- As a number, a word with its leading byte moved to the end is rotated left by 8 bits (R114). -/
theorem rotWord_eq_rotateLeft (w : Word) : rotWord w = w.rotateLeft 8 := by
  ext i hi
  simp [rotWord, wordByte, wordOfBytes, BitVec.getElem_rotateLeft]
  grind

/-- Settles O26: both operations act on the four bytes of a word. -/
theorem wordUnits : Obligations.WordUnits := by
  refine ⟨fun b0 b1 b2 b3 s => ⟨?_, ?_⟩, exists_wordOfBytes, fun w => ?_⟩
  · rw [exec, execSubw, subWord_wordOfBytes, wordBytes_wordOfBytes, respond]
  · rw [exec, execRotw, rotWord_wordOfBytes, wordBytes_wordOfBytes, respond]
  · obtain ⟨b0, b1, b2, b3, rfl⟩ := exists_wordOfBytes w
    refine ⟨rotWord_eq_rotateLeft _, ?_, ?_⟩ <;> simp only [rotWord_wordOfBytes, subWord_wordOfBytes]

end Sys2Proof.Machine
end

section
/-! PROOFS. MixColumns, AddRoundKey and the laws of the round operations, with the commands MIXCOL, IMIXCOL and ADDRK
(43_round_transform.md R137 to R142). -/

namespace Sys2Proof.Machine

section
variable (m n : Vector Byte 4) (S : Matrix) (c : Fin 4)

/-! A column mix row by row: each row of the matrix is the row above it, rotated right (R137). -/

theorem cell_mixWith_row_zero : cell (mixWith m S) 0 c =
    gfmul m[0] (cell S 0 c) ^^^ gfmul m[1] (cell S 1 c) ^^^ gfmul m[2] (cell S 2 c) ^^^ gfmul m[3] (cell S 3 c) :=
  cell_mixWith m S 0 c

theorem cell_mixWith_row_one : cell (mixWith m S) 1 c =
    gfmul m[3] (cell S 0 c) ^^^ gfmul m[0] (cell S 1 c) ^^^ gfmul m[1] (cell S 2 c) ^^^ gfmul m[2] (cell S 3 c) :=
  cell_mixWith m S 1 c

theorem cell_mixWith_row_two : cell (mixWith m S) 2 c =
    gfmul m[2] (cell S 0 c) ^^^ gfmul m[3] (cell S 1 c) ^^^ gfmul m[0] (cell S 2 c) ^^^ gfmul m[1] (cell S 3 c) :=
  cell_mixWith m S 2 c

theorem cell_mixWith_row_three : cell (mixWith m S) 3 c =
    gfmul m[1] (cell S 0 c) ^^^ gfmul m[2] (cell S 1 c) ^^^ gfmul m[3] (cell S 2 c) ^^^ gfmul m[0] (cell S 3 c) :=
  cell_mixWith m S 3 c

/-- The first row of the product of the circulant matrices with first rows `m` and `n`. -/
def circulantProduct : Vector Byte 4 :=
  #v[gfmul m[0] n[0] ^^^ gfmul m[1] n[3] ^^^ gfmul m[2] n[2] ^^^ gfmul m[3] n[1],
    gfmul m[0] n[1] ^^^ gfmul m[1] n[0] ^^^ gfmul m[2] n[3] ^^^ gfmul m[3] n[2],
    gfmul m[0] n[2] ^^^ gfmul m[1] n[1] ^^^ gfmul m[2] n[0] ^^^ gfmul m[3] n[3],
    gfmul m[0] n[3] ^^^ gfmul m[1] n[2] ^^^ gfmul m[2] n[1] ^^^ gfmul m[3] n[0]]

/-- One column mix after another is the mix by the product of their matrices. -/
theorem mixWith_mixWith : mixWith m (mixWith n S) = mixWith (circulantProduct m n) S := by
  refine matrix_ext fun r c => ?_
  match r with
  | 0 | 1 | 2 | 3 =>
    simp only [cell_mixWith_row_zero, cell_mixWith_row_one, cell_mixWith_row_two, cell_mixWith_row_three,
      circulantProduct, Vector.getElem_mk, List.getElem_toArray, List.getElem_cons_zero, List.getElem_cons_succ,
      gfmul_xor, xor_gfmul, gfmul_assoc]
    ac_rfl

end

/-- The mix by the first row 1, 0, 0, 0 leaves a State as it is. -/
theorem mixWith_identity (S : Matrix) : mixWith #v[1, 0, 0, 0] S = S := by
  refine matrix_ext fun r c => ?_
  match r with
  | 0 | 1 | 2 | 3 =>
    simp [cell_mixWith_row_zero, cell_mixWith_row_one, cell_mixWith_row_two, cell_mixWith_row_three]

@[simp] theorem invMixColumns_mixColumns (S : Matrix) : invMixColumns (mixColumns S) = S := by
  have h : circulantProduct mixInverse mixForward = #v[1, 0, 0, 0] := by decide
  rw [invMixColumns, mixColumns, mixWith_mixWith, h, mixWith_identity]

@[simp] theorem mixColumns_invMixColumns (S : Matrix) : mixColumns (invMixColumns S) = S := by
  have h : circulantProduct mixForward mixInverse = #v[1, 0, 0, 0] := by decide
  rw [invMixColumns, mixColumns, mixWith_mixWith, h, mixWith_identity]

section
variable (m : Vector Byte 4) (b0 b1 b2 b3 b4 b5 b6 b7 b8 b9 b10 b11 b12 b13 b14 b15 : Byte)

/-- The bytes of a column mix, column by column (R24, R137). -/
theorem blockBytes_onBlock_mixWith :
    blockBytes (onBlock (mixWith m)
        (blockOfBytes [b0, b1, b2, b3, b4, b5, b6, b7, b8, b9, b10, b11, b12, b13, b14, b15])) =
      mixedColumn m[0] m[1] m[2] m[3] b0 b1 b2 b3 ++ mixedColumn m[0] m[1] m[2] m[3] b4 b5 b6 b7 ++
        mixedColumn m[0] m[1] m[2] m[3] b8 b9 b10 b11 ++ mixedColumn m[0] m[1] m[2] m[3] b12 b13 b14 b15 := by
  rw [onBlock, blockBytes_store]
  simp only [cell_mixWith_row_zero, cell_mixWith_row_one, cell_mixWith_row_two, cell_mixWith_row_three,
    cell_load_blockOfBytes]
  rfl

end

/-- Settles O29: the product of the two circulant matrices is the identity; a block goes through the matrix column by
column. -/
theorem mixColumnsAndItsInverse : Obligations.MixColumnsAndItsInverse := by
  refine ⟨fun S => ⟨invMixColumns_mixColumns S, mixColumns_invMixColumns S⟩, ?_⟩
  intro b0 b1 b2 b3 b4 b5 b6 b7 b8 b9 b10 b11 b12 b13 b14 b15 s
  constructor
  · rw [exec, execMixcol, withBlock_of_length rfl, respond]
    exact congrArg (fun p => Host.Outcome.next (s.answer (.ok p))) (blockBytes_onBlock_mixWith mixForward ..)
  · rw [exec, execImixcol, withBlock_of_length rfl, respond]
    exact congrArg (fun p => Host.Outcome.next (s.answer (.ok p))) (blockBytes_onBlock_mixWith mixInverse ..)

section
variable (m : Vector Byte 4) {S T : Matrix}

/-- A mixed column depends on that column only (R142). -/
theorem cell_mixWith_congr {c : Fin 4} (h : ∀ r, cell S r c = cell T r c) (r : Fin 4) :
    cell (mixWith m S) r c = cell (mixWith m T) r c := by
  simp only [cell_mixWith, h]

/-- Mixing is additive (R142). -/
theorem mixWith_xorMatrix (S T : Matrix) : mixWith m (xorMatrix S T) = xorMatrix (mixWith m S) (mixWith m T) := by
  refine matrix_ext fun r c => ?_
  simp only [cell_mixWith, cell_xorMatrix, gfmul_xor]
  ac_rfl

/-- Mixing commutes with the multiplication of every cell by a byte (R142). -/
theorem mixWith_scale (a : Byte) (S : Matrix) :
    mixWith m (matrixOf fun r c => gfmul a (cell S r c)) = matrixOf fun r c => gfmul a (cell (mixWith m S) r c) := by
  refine matrix_ext fun r c => ?_
  simp only [cell_mixWith, cell_matrixOf, gfmul_xor, gfmul_left_comm _ a]

end

/-- A lookup of each cell may be made before or after the cells move (R142). -/
theorem subBytes_shiftRows (S : Matrix) : subBytes (shiftRows S) = shiftRows (subBytes S) :=
  matrix_ext fun r c => by rw [cell_subBytes, cell_shiftRows, cell_shiftRows, cell_subBytes]

theorem invSubBytes_invShiftRows (S : Matrix) : invSubBytes (invShiftRows S) = invShiftRows (invSubBytes S) :=
  matrix_ext fun r c => by rw [cell_invSubBytes, cell_invShiftRows, cell_invShiftRows, cell_invSubBytes]

/-- Settles O30: the laws hold of the mix by any circulant matrix, and a lookup does not look where its cell stands. -/
theorem roundOperationsByLanes : Obligations.RoundOperationsByLanes :=
  ⟨fun _ _ _ h r => ⟨cell_mixWith_congr mixForward h r, cell_mixWith_congr mixInverse h r⟩,
    fun S T => ⟨mixWith_xorMatrix mixForward S T, mixWith_xorMatrix mixInverse S T⟩,
    fun a S => ⟨mixWith_scale mixForward a S, mixWith_scale mixInverse a S⟩,
    fun S => ⟨subBytes_shiftRows S, invSubBytes_invShiftRows S⟩⟩

@[simp] theorem addRoundKey_addRoundKey (w : Vector Word 60) (rk : Nat) (S : Matrix) :
    addRoundKey w rk (addRoundKey w rk S) = S :=
  matrix_ext fun r c => by rw [cell_addRoundKey, cell_addRoundKey, BitVec.xor_assoc, BitVec.xor_self, BitVec.xor_zero]

theorem store_xorMatrix (S T : Matrix) : store (xorMatrix S T) = xorBlock (store S) (store T) := by
  ext1 k hk
  rw [getElem_store _ _ hk, cell_xorMatrix, getElem_xorBlock, getElem_store _ _ hk, getElem_store _ _ hk]

/-- The round key taken as a State is stored as the bytes of its four words (R140). -/
theorem blockBytes_store_keyMatrix (w : Vector Word 60) (rk : Nat) :
    blockBytes (store (keyMatrix w rk)) = roundKeyBytes w rk := by
  rw [blockBytes_store]
  simp only [cell_keyMatrix]
  rfl

/-- AddRoundKey on a 16-byte string is its XOR with the bytes of the round key (R140). -/
theorem blockBytes_onBlock_addRoundKey (w : Vector Word 60) (rk : Nat) {data : List Byte} (h : data.length = 16) :
    blockBytes (onBlock (addRoundKey w rk) (blockOfBytes data)) = xorBytes data (roundKeyBytes w rk) := by
  rw [onBlock, addRoundKey_eq_xorMatrix, store_xorMatrix, store_load, blockBytes_xorBlock, blockBytes_blockOfBytes h,
    blockBytes_store_keyMatrix]

/-- Settles O31: AddRoundKey is XOR with the round key, and ADDRK checks its number against NK + 6 first. -/
theorem addRoundKeyAndAddrk : Obligations.AddRoundKeyAndAddrk := by
  refine ⟨fun w rk S => ⟨addRoundKey_addRoundKey w rk S, cell_addRoundKey w rk S⟩, fun rk data s hlen hks => ?_⟩
  rw [exec, execAddrk, withBlock_of_length hlen, needSchedule_of_valid hks, roundCount]
  constructor
  · intro hrk
    rw [if_neg (Nat.not_lt.2 hrk), blockBytes_onBlock_addRoundKey _ _ hlen, respond]
  · intro hrk
    rw [if_pos hrk, raise]

end Sys2Proof.Machine
end

section
/-! PROOFS. Decryption and encryption undo each other, and the equivalent inverse cipher is decryption
(44_cipher_engine.md R150, R151, R154). -/

namespace Sys2Proof.Machine

section
variable (w : Vector Word 60)

/-- One step of decryption takes back the mix and the round key of its round (R151). -/
theorem undoRound_fullRound (n : Nat) (S : Matrix) :
    undoRound w n (shiftRows (subBytes (fullRound w n S))) = shiftRows (subBytes S) := by
  rw [undoRound, invShiftRows_shiftRows, invSubBytes_subBytes, fullRound, addRoundKey_addRoundKey,
    invMixColumns_mixColumns]

/-- A full round takes back the step of decryption that undoes it (R151). -/
theorem fullRound_undoRound (n : Nat) (S : Matrix) :
    fullRound w n (invSubBytes (invShiftRows (undoRound w n S))) = invSubBytes (invShiftRows S) := by
  rw [fullRound, subBytes_invSubBytes, shiftRows_invShiftRows, undoRound, mixColumns_invMixColumns,
    addRoundKey_addRoundKey]

/-- Decryption's loop undoes encryption's, round by round from the last. -/
theorem decryptRounds_encryptRounds (n : Nat) (S : Matrix) :
    decryptRounds w n (shiftRows (subBytes (encryptRounds w n S))) = shiftRows (subBytes S) := by
  induction n with
  | zero => rfl
  | succ n ih => rw [decryptRounds, encryptRounds, undoRound_fullRound, ih]

/-- Encryption's loop undoes decryption's, round by round from the first. -/
theorem encryptRounds_decryptRounds (n : Nat) (S : Matrix) :
    encryptRounds w n (invSubBytes (invShiftRows (decryptRounds w n S))) = invSubBytes (invShiftRows S) := by
  induction n generalizing S with
  | zero => rfl
  | succ n ih => rw [encryptRounds, decryptRounds, ih, fullRound_undoRound]

@[simp] theorem decrypt_encrypt (nr : Nat) (b : Block) : decrypt w nr (encrypt w nr b) = b := by
  rw [decrypt, encrypt, load_store, addRoundKey_addRoundKey, decryptRounds_encryptRounds, invShiftRows_shiftRows,
    invSubBytes_subBytes, addRoundKey_addRoundKey, store_load]

@[simp] theorem encrypt_decrypt (nr : Nat) (b : Block) : encrypt w nr (decrypt w nr b) = b := by
  rw [encrypt, decrypt, load_store, addRoundKey_addRoundKey, encryptRounds_decryptRounds, subBytes_invSubBytes,
    shiftRows_invShiftRows, addRoundKey_addRoundKey, store_load]

/-- InvMixColumns is additive, so that the round key may go through it apart, and the two other operations commute
(R142, R154). -/
theorem equivalentRound_eq_undoRound (n : Nat) (S : Matrix) : equivalentRound w n S = undoRound w n S := by
  rw [equivalentRound, undoRound, ← invSubBytes_invShiftRows, addRoundKey_eq_xorMatrix]
  exact (mixWith_xorMatrix mixInverse _ _).symm

theorem equivalentRounds_eq_decryptRounds (n : Nat) (S : Matrix) : equivalentRounds w n S = decryptRounds w n S := by
  induction n generalizing S with
  | zero => rfl
  | succ n ih => rw [equivalentRounds, decryptRounds, equivalentRound_eq_undoRound, ih]

theorem decryptEquivalent_eq_decrypt (nr : Nat) (b : Block) : decryptEquivalent w nr b = decrypt w nr b := by
  rw [decryptEquivalent, decrypt, equivalentRounds_eq_decryptRounds, ← invSubBytes_invShiftRows,
    ← addRoundKey_eq_xorMatrix, ← addRoundKey_eq_xorMatrix]

end

/-- Settles O40: each middle round is the step of decryption it stands for. -/
theorem equivalentInverseCipher : Obligations.EquivalentInverseCipher := decryptEquivalent_eq_decrypt

/-- Settles O39: the two commands answer the two functions under one schedule, and these undo each other. -/
theorem decryptionInvertsEncryption : Obligations.DecryptionInvertsEncryption := by
  intro data s s' hlen hks hks' hw hnk
  have henc : ∀ b, encryptUnder s' b = encryptUnder s b := fun b => by rw [encryptUnder, encryptUnder, hw, hnk]
  have hdec : ∀ b, decryptUnder s' b = decryptUnder s b := fun b => by rw [decryptUnder, decryptUnder, hw, hnk]
  refine ⟨⟨_, length_blockBytes _, exec_encblk_of_length hlen hks, ?_⟩,
    ⟨_, length_blockBytes _, exec_decblk_of_length hlen hks, ?_⟩⟩
  · rw [exec_decblk_of_length (length_blockBytes _) hks', blockOfBytes_blockBytes, hdec, encryptUnder, decryptUnder,
      decrypt_encrypt, blockBytes_blockOfBytes hlen]
  · rw [exec_encblk_of_length (length_blockBytes _) hks', blockOfBytes_blockBytes, henc, encryptUnder, decryptUnder,
      encrypt_decrypt, blockBytes_blockOfBytes hlen]

end Sys2Proof.Machine
end

section
/-! PROOFS. The commands of the two modes that load and read back a register or unpad, with UNPAD; that decryption
commands undo encryption commands; and the sequence of counters (45_padding_cbc.md R161 to R170, 46_ctr.md R182 to
R188). -/

namespace Sys2Proof.Machine

/-- The count of counted bytes cut from a block (R76). -/
theorem countedBytes_take_blockBytes (d : Block) (n : Nat) :
    countedBytes ((blockBytes d).take (16 - n)) = BitVec.ofNat 8 (16 - n) :: (blockBytes d).take (16 - n) := by
  rw [countedBytes, List.length_take, length_blockBytes, Nat.min_eq_left (Nat.sub_le 16 n), byteOfNat]

/-- The end of an unpadding command on a legal last byte, its payload written out (R163). -/
theorem respondUnpadded_eq_next_of_legal_count {d : Block} (h : 1 ≤ d[15].toNat ∧ d[15].toNat ≤ 16) (c s : State) :
    respondUnpadded false d c s = .next (c.answer
      (.ok (BitVec.ofNat 8 (16 - d[15].toNat) :: (blockBytes d).take (16 - d[15].toNat)))) := by
  rw [respondUnpadded_of_legal_count h.1 h.2, unpaddedPayload, countedBytes_take_blockBytes, respond]

/-- Settles O35: the block is the operand, whose last byte alone decides. -/
theorem unpadAnswersCountedBytes : Obligations.UnpadAnswersCountedBytes := by
  rintro data s _ hlen rfl
  rw [exec_unpad_of_length hlen, ← getElem_blockOfBytes data 15 (by decide), ← blockBytes_blockOfBytes hlen,
    blockOfBytes_blockBytes]
  exact ⟨fun h => respondUnpadded_eq_next_of_legal_count h s s, fun h => respondUnpadded_of_illegal_count false h s s⟩

/-- Settles O43: CBCDECF unpads the decrypted block and keeps the ciphertext as CV, but for InvalidPadding. -/
theorem cbcFinalBlockIsUnpadded : Obligations.CbcFinalBlockIsUnpadded := by
  rintro data s _ hlen hks hcv rfl
  rw [exec_cbcdecf_of_length hks hcv hlen]
  exact ⟨fun h => respondUnpadded_eq_next_of_legal_count h _ s, fun h => respondUnpadded_of_illegal_count false h _ s⟩

/-- Settles O46: CTRDECF unpads the block XOR the keystream and increments CB, but for InvalidPadding. -/
theorem ctrFinalBlockIsUnpadded : Obligations.CtrFinalBlockIsUnpadded := by
  rintro data s _ hlen hks hcb rfl
  rw [exec_ctrdecf_of_length hks hcb hlen]
  exact ⟨fun h => respondUnpadded_eq_next_of_legal_count h _ s, fun h => respondUnpadded_of_illegal_count false h _ s⟩

/-- CBCINIT of a block loads CV (R165). -/
theorem exec_cbcinit_of_length {data : List Byte} (h : data.length = 16) (s : State) :
    exec (.cbcinit data) s = .next ((s.initCv (blockOfBytes data)).answer (.ok [])) := by
  rw [exec, execCbcinit, withBlock_of_length h, respond]

/-- CTRINIT of a block loads CB (R182). -/
theorem exec_ctrinit_of_length {data : List Byte} (h : data.length = 16) (s : State) :
    exec (.ctrinit data) s = .next ((s.initCb (blockOfBytes data)).answer (.ok [])) := by
  rw [exec, execCtrinit, withBlock_of_length h, respond]

section
variable {s : State}

theorem exec_rdcv_of_valid (h : s.cvValid = true) : exec .rdcv s = .next (s.answer (.ok (blockBytes s.cv))) :=
  needCv_of_valid h

theorem exec_rdcv_of_not_valid (h : s.cvValid = false) : exec .rdcv s = .next (s.answer (.error .notReady)) :=
  if_pos h

theorem exec_rdctr_of_valid (h : s.cbValid = true) : exec .rdctr s = .next (s.answer (.ok (blockBytes s.cb))) :=
  needCb_of_valid h

theorem exec_rdctr_of_not_valid (h : s.cbValid = false) : exec .rdctr s = .next (s.answer (.error .notReady)) :=
  if_pos h

end

/-- Settles O41: the block loaded is the register's content, which its read command answers when the flag is 1. -/
theorem initThenReadBack : Obligations.InitThenReadBack := by
  refine ⟨fun data s hlen => ⟨⟨_, exec_cbcinit_of_length hlen s, ?_, rfl, ?_⟩,
      ⟨_, exec_ctrinit_of_length hlen s, ?_, rfl, ?_⟩⟩,
    fun s => ⟨exec_rdcv_of_valid, exec_rdcv_of_not_valid, exec_rdctr_of_valid, exec_rdctr_of_not_valid⟩⟩
  · rw [State.answer_outbox, State.initCv_outbox]
  · rw [exec_rdcv_of_valid rfl, State.answer_cv, State.initCv_cv, blockBytes_blockOfBytes hlen]
  · rw [State.answer_outbox, State.initCb_outbox]
  · rw [exec_rdctr_of_valid rfl, State.answer_cb, State.initCb_cb, blockBytes_blockOfBytes hlen]

/-- A padded tail is unpadded to the tail (R161). -/
theorem respondUnpadded_padFinal (strict : Bool) {t : List Byte} (h : t.length ≤ 15) (c s : State) :
    respondUnpadded strict (blockOfBytes (padFinal t)) c s = .next (c.answer (.ok (countedBytes t))) := by
  rw [respondUnpadded, unpadFinal_padFinal strict h]
  rfl

section
variable {s s' : State} (hw : s.w = s'.w) (hnk : s.nk = s'.nk)
include hw hnk

/-- From the same schedule and chaining value a decrypted block is the block encrypted (R164). -/
theorem cbcDecryptBlock_cbcEncryptBlock (hcv : s.cv = s'.cv) (p : Block) :
    cbcDecryptBlock s' (cbcEncryptBlock s p) = p := by
  rw [cbcDecryptBlock, cbcEncryptBlock, decryptUnder, encryptUnder, ← hw, ← hnk, ← hcv, decrypt_encrypt,
    xorBlock_xorBlock_cancel]

/-- From the same schedule and counter the keystream block is the same, so that it cancels (R189). -/
theorem ctrBlock_ctrBlock (hcb : s.cb = s'.cb) (x : Block) : ctrBlock s' (ctrBlock s x) = x := by
  rw [ctrBlock, ctrBlock, encryptUnder, encryptUnder, ← hw, ← hnk, ← hcb, xorBlock_xorBlock_cancel]

end

/-- Settles O44: the block chained through the cipher comes back, and both sides keep the ciphertext as CV. -/
theorem cbcDecryptsWhatItEncrypts : Obligations.CbcDecryptsWhatItEncrypts := by
  intro s s' hks hcv hks' hcv' hw hnk hsame
  refine ⟨fun data hlen => ⟨blockBytes (cbcEncryptBlock s (blockOfBytes data)), _, _,
      exec_cbcencb_of_length hks hcv hlen, ?_, exec_cbcdecb_of_length hks' hcv' (length_blockBytes _), ?_, ?_⟩,
    fun tail hlen => ⟨blockBytes (cbcEncryptBlock s (blockOfBytes (padFinal tail))), _,
      (s'.setCv (cbcEncryptBlock s (blockOfBytes (padFinal tail)))).answer (.ok (countedBytes tail)),
      exec_cbcencf_of_length hks hcv hlen, ?_, ?_, ?_, ?_⟩⟩
  · rw [State.answer_outbox, State.setCv_outbox]
  · rw [blockOfBytes_blockBytes, cbcDecryptBlock_cbcEncryptBlock hw hnk hsame, blockBytes_blockOfBytes hlen,
      State.answer_outbox, State.setCv_outbox]
  · simp only [State.answer_cv, State.setCv_cv, blockOfBytes_blockBytes]
  · rw [State.answer_outbox, State.setCv_outbox]
  · rw [exec_cbcdecf_of_length hks' hcv' (length_blockBytes _), blockOfBytes_blockBytes,
      cbcDecryptBlock_cbcEncryptBlock hw hnk hsame, respondUnpadded_padFinal false hlen]
  · rw [State.answer_outbox, State.setCv_outbox, countedBytes, byteOfNat]
  · simp only [State.answer_cv, State.setCv_cv]

section
variable {data : List Byte} {s : State} (hks : s.ksValid = true) (hcb : s.cbValid = true)
include hks hcb

/-! The block commands of CTR, their payloads as blocks (R183 to R185). -/

theorem exec_ctrencb_eq_ctrBlock (h : data.length = 16) :
    exec (.ctrencb data) s =
      .next ((s.setCb (inc32 s.cb)).answer (.ok (blockBytes (ctrBlock s (blockOfBytes data))))) := by
  rw [exec_ctrencb_of_length hks hcb h, blockBytes_ctrBlock_blockOfBytes s h]

theorem exec_ctrdecb_eq_ctrBlock (h : data.length = 16) :
    exec (.ctrdecb data) s =
      .next ((s.setCb (inc32 s.cb)).answer (.ok (blockBytes (ctrBlock s (blockOfBytes data))))) := by
  rw [exec_ctrdecb_of_length hks hcb h, blockBytes_ctrBlock_blockOfBytes s h]

theorem exec_ctrencf_eq_ctrBlock (h : data.length ≤ 15) :
    exec (.ctrencf data) s =
      .next ((s.setCb (inc32 s.cb)).answer (.ok (blockBytes (ctrBlock s (blockOfBytes (padFinal data)))))) := by
  rw [exec_ctrencf_of_length hks hcb h, blockBytes_ctrBlock_blockOfBytes s (length_padFinal h)]

end

/-- Settles O47: the keystream block cancels, and both sides increment the counter they have in common. -/
theorem ctrDecryptsWhatItEncrypts : Obligations.CtrDecryptsWhatItEncrypts := by
  intro s s' hks hcb hks' hcb' hw hnk hsame
  refine ⟨fun data hlen => ⟨blockBytes (ctrBlock s (blockOfBytes data)), _, _,
      exec_ctrencb_eq_ctrBlock hks hcb hlen, ?_, exec_ctrdecb_eq_ctrBlock hks' hcb' (length_blockBytes _), ?_, ?_⟩,
    fun tail hlen => ⟨blockBytes (ctrBlock s (blockOfBytes (padFinal tail))), _,
      (s'.setCb (inc32 s'.cb)).answer (.ok (countedBytes tail)),
      exec_ctrencf_eq_ctrBlock hks hcb hlen, ?_, ?_, ?_, ?_⟩⟩
  · rw [State.answer_outbox, State.setCb_outbox]
  · rw [blockOfBytes_blockBytes, ctrBlock_ctrBlock hw hnk hsame, blockBytes_blockOfBytes hlen, State.answer_outbox,
      State.setCb_outbox]
  · simp only [State.answer_cb, State.setCb_cb, hsame]
  · rw [State.answer_outbox, State.setCb_outbox]
  · rw [exec_ctrdecf_of_length hks' hcb' (length_blockBytes _), blockOfBytes_blockBytes,
      ctrBlock_ctrBlock hw hnk hsame, respondUnpadded_padFinal false hlen]
  · rw [State.answer_outbox, State.setCb_outbox, countedBytes, byteOfNat]
  · simp only [State.answer_cb, State.setCb_cb, hsame]

/-- `k` increments add `k` to the counter field, as a 32-bit word (R188). -/
theorem counterField_counterAt (ctr : Block) (k : Nat) :
    counterField (counterAt ctr k) = counterField ctr + BitVec.ofNat 32 k := by
  induction k with
  | zero => exact (BitVec.add_zero _).symm
  | succ k ih => rw [counterAt, counterField_inc32, ih, BitVec.add_assoc, BitVec.ofNat_add]; rfl

theorem getElem_counterAt_of_lt (ctr : Block) (k : Nat) {j : Nat} (h : j < 12) : (counterAt ctr k)[j] = ctr[j] := by
  induction k with
  | zero => rfl
  | succ k ih => rw [counterAt, getElem_inc32_of_lt _ h, ih]

/-- The bytes of the counter field (R53, R180). -/
theorem getElem_eq_wordByte_counterField (x : Block) {j : Nat} (h : 12 + j < 16) :
    x[12 + j] = wordByte (counterField x) j := by
  have hj : j < 4 := by omega
  rw [counterField_eq]
  match j with
  | 0 => rw [wordByte_wordOfBytes_zero]
  | 1 => rw [wordByte_wordOfBytes_one]
  | 2 => rw [wordByte_wordOfBytes_two]
  | 3 => rw [wordByte_wordOfBytes_three]

/-- A block is its first 12 bytes and its counter field. -/
theorem block_ext_counterField {x y : Block} (hupper : ∀ j (h : j < 12), x[j] = y[j])
    (hfield : counterField x = counterField y) : x = y := by
  ext1 k hk
  by_cases hlt : k < 12
  · exact hupper k hlt
  · obtain ⟨j, rfl⟩ := Nat.exists_eq_add_of_le (Nat.le_of_not_lt hlt)
    rw [getElem_eq_wordByte_counterField x hk, getElem_eq_wordByte_counterField y hk, hfield]

/-- Settles O48: `k` increments are one addition to a 32-bit word, which with 12 bytes that stay is the counter. -/
theorem counterSequence : Obligations.CounterSequence := by
  refine fun ctr k => ⟨?_, fun j h => getElem_counterAt_of_lt ctr k h, block_ext_counterField (fun j h => ?_) ?_⟩
  · rw [counterField_counterAt, BitVec.toNat_add, BitVec.toNat_ofNat, Nat.add_mod_mod]
  · rw [getElem_counterAt_of_lt _ _ h, getElem_counterAt_of_lt _ _ h]
  · have hperiod : BitVec.ofNat 32 (2 ^ 32) = 0#32 := by decide
    rw [counterField_counterAt, counterField_counterAt, BitVec.ofNat_add, hperiod, BitVec.add_zero]

end Sys2Proof.Machine
end

section
/-! PROOFS. Whole messages in closed form: cutting a byte string into blocks, and that decryption undoes encryption
(45_padding_cbc.md R171, 46_ctr.md R188). -/

namespace Sys2Proof.Machine

@[simp] theorem bytesOf_nil : bytesOf [] = [] := rfl

@[simp] theorem bytesOf_cons (b : Block) (bs : List Block) : bytesOf (b :: bs) = blockBytes b ++ bytesOf bs := rfl

@[simp] theorem bytesOf_append (bs cs : List Block) : bytesOf (bs ++ cs) = bytesOf bs ++ bytesOf cs :=
  List.flatMap_append

@[simp] theorem length_bytesOf (bs : List Block) : (bytesOf bs).length = 16 * bs.length := by
  induction bs with
  | nil => rfl
  | cons b bs ih => rw [bytesOf_cons, List.length_append, length_blockBytes, ih, List.length_cons]; omega

theorem blockNumber_append_zero (b : Block) (m : List Byte) : blockNumber (blockBytes b ++ m) 0 = b := by
  rw [blockNumber, Nat.mul_zero, List.drop_zero, List.take_left' (length_blockBytes b), blockOfBytes_blockBytes]

theorem blockNumber_append_succ (b : Block) (m : List Byte) (k : Nat) :
    blockNumber (blockBytes b ++ m) (k + 1) = blockNumber m k := by
  rw [blockNumber, blockNumber, Nat.mul_succ, Nat.add_comm, ← List.drop_drop, List.drop_left' (length_blockBytes b)]

/-- The first block of a byte string is cut off first. -/
theorem blocksOf_append (b : Block) (m : List Byte) : blocksOf (blockBytes b ++ m) = b :: blocksOf m := by
  have hlen : (blockBytes b ++ m).length / 16 = m.length / 16 + 1 := by
    rw [List.length_append, length_blockBytes]
    omega
  rw [blocksOf, hlen, List.range_succ_eq_map, List.map_cons, List.map_map, blockNumber_append_zero, blocksOf]
  exact congrArg (b :: ·) (List.map_congr_left fun k _ => blockNumber_append_succ b m k)

/-- Blocks put together are cut into the same blocks. -/
@[simp] theorem blocksOf_bytesOf (bs : List Block) : blocksOf (bytesOf bs) = bs := by
  induction bs with
  | nil => rfl
  | cons b bs ih => rw [bytesOf_cons, blocksOf_append, ih]

section
variable {m : List Byte} {n : Nat} (h : 16 * n ≤ m.length)
include h

/-- A piece that the byte string has in full is 16 bytes. -/
theorem length_piece {k : Nat} (hk : k < n) : (piece m k).length = 16 := by
  rw [piece, List.length_take, List.length_drop]
  omega

/-- The first `n` blocks are the first `16 * n` bytes. -/
theorem bytesOf_map_blockNumber : bytesOf ((List.range n).map (blockNumber m)) = m.take (16 * n) := by
  rw [bytesOf, List.flatMap_map, ← flatMap_range_take_drop]
  exact List.flatMap_congr fun k hk => blockBytes_blockOfBytes (length_piece h (List.mem_range.1 hk))

/-- The first `n` blocks and 16 more bytes, as a byte string and as blocks. -/
theorem blocksOf_take_append {last : List Byte} (hlast : last.length = 16) :
    blocksOf (m.take (16 * n) ++ last) = (List.range n).map (blockNumber m) ++ [blockOfBytes last] := by
  rw [← bytesOf_map_blockNumber h, ← blockBytes_blockOfBytes hlast, ← blocksOf_bytesOf (_ ++ _), bytesOf_append,
    bytesOf_cons, bytesOf_nil, List.append_nil, blockOfBytes_blockBytes]

end

/-- A padded message is its full blocks and the block of its padded tail (R160). -/
theorem blocksOf_padMessage (msg : List Byte) : blocksOf (padMessage msg) =
    (List.range (msg.length / 16)).map (blockNumber msg) ++
      [blockOfBytes (padFinal (msg.drop (16 * (msg.length / 16))))] := by
  have htail : (msg.drop (16 * (msg.length / 16))).length ≤ 15 := by
    rw [length_drop_fullBlocks]
    omega
  rw [padMessage_eq_append_padFinal, blocksOf_take_append (Nat.mul_div_le ..) (length_padFinal htail)]

/-- The blocks of a padded message are the padded message (R160). -/
theorem bytesOf_blocksOf_padMessage (msg : List Byte) : bytesOf (blocksOf (padMessage msg)) = padMessage msg := by
  have hlen := length_padMessage msg
  have hblocks : (padMessage msg).length / 16 = msg.length / 16 + 1 := by omega
  rw [blocksOf, hblocks, bytesOf_map_blockNumber hlen.ge, ← hlen, List.take_length]

/-- Decryption along a chain undoes encryption along it: each ciphertext block is the next chaining value of both. -/
theorem cbcDecryptChain_cbcEncryptChain {enc dec : Block → Block} (h : ∀ b, dec (enc b) = b) (prev : Block)
    (ps : List Block) : cbcDecryptChain dec prev (cbcEncryptChain enc prev ps) = ps := by
  induction ps generalizing prev with
  | nil => rfl
  | cons p ps ih => rw [cbcEncryptChain, cbcDecryptChain, h, xorBlock_xorBlock_cancel, ih]

/-- The same keystream cancels, block by block. -/
theorem ctrChain_ctrChain (enc : Block → Block) (ctr : Block) (start : Nat) (xs : List Block) :
    ctrChain enc ctr start (ctrChain enc ctr start xs) = xs := by
  induction xs generalizing start with
  | nil => rfl
  | cons x xs ih => rw [ctrChain, ctrChain, xorBlock_xorBlock_cancel, ih]

theorem cbcDecryptMessage_cbcEncryptMessage {enc dec : Block → Block} (h : ∀ b, dec (enc b) = b) (strict : Bool)
    (iv : Block) (msg : List Byte) :
    cbcDecryptMessage strict dec iv (cbcEncryptMessage enc iv msg) = .ok msg := by
  rw [cbcDecryptMessage, cbcEncryptMessage, blocksOf_bytesOf, cbcDecryptChain_cbcEncryptChain h,
    bytesOf_blocksOf_padMessage, unpadMessage_padMessage]

theorem ctrDecryptMessage_ctrEncryptMessage (enc : Block → Block) (strict : Bool) (ctr : Block) (msg : List Byte) :
    ctrDecryptMessage strict enc ctr (ctrEncryptMessage enc ctr msg) = .ok msg := by
  rw [ctrDecryptMessage, ctrEncryptMessage, blocksOf_bytesOf, ctrChain_ctrChain, bytesOf_blocksOf_padMessage,
    unpadMessage_padMessage]

/-- Settles O52: each chain is undone block by block, and what is left to undo is the padding. -/
theorem messagesRoundTrip : Obligations.MessagesRoundTrip := fun w nr iv msg strict =>
  ⟨cbcDecryptMessage_cbcEncryptMessage (decrypt_encrypt w nr) strict iv msg,
    ctrDecryptMessage_ctrEncryptMessage (encrypt w nr) strict iv msg⟩

end Sys2Proof.Machine
end

section
/-! PROOFS. The pseudo-commands: the host stops at the first error, and otherwise the commands it issues compute the
closed forms (30_encoding.md R96). -/

namespace Sys2Proof.Machine

section
variable {i : Instr} {rest before after : List Instr} {got g : List Byte} {s t u v : State} {e : CmdError} {p : Pseudo}

/-- Commands answered OK are followed by the rest of the list. -/
theorem issue_append_of_ok (h : issue before got s = some (u, .ok g)) :
    issue (before ++ after) got s = issue after g u := by
  induction before generalizing got s with
  | nil => cases h; rfl
  | cons i before ih =>
    rw [issue] at h
    rw [List.cons_append, issue]
    split at h
    · cases h
    · exact ih h
    · cases h

/-- The first error ends the list (R96). -/
theorem issue_of_first_error (h : issue before got s = some (u, .ok g))
    (herr : transact (encode i) u = some (v, .error e)) :
    issue (before ++ i :: after) got s = some (v, .error e) := by
  rw [issue_append_of_ok h, issue_cons_error herr]

theorem runPseudo_of_expandPseudo {commands : List Instr} (h : expandPseudo p = some commands) (s : State) :
    runPseudo p s = issue commands [] s := by
  rw [runPseudo, h]

theorem runPseudo_of_expandPseudo_none (h : expandPseudo p = none) (s : State) :
    runPseudo p s = some (s, .error .invalidBlockLength) := by
  rw [runPseudo, h]

end

/-! ### What the pseudo-commands expand to -/

/-- The list as its first command and the commands that carry the message, piece by piece. -/
theorem messageCommands_eq (start : Instr) (interior final : List Byte → Instr) (n : Nat) (m : List Byte) :
    messageCommands start interior final n m =
      start :: (((List.range n).map (piece m)).map interior ++ [final (m.drop (16 * n))]) := by
  rw [messageCommands, List.map_map, List.cons_append]
  rfl

section
variable {iv m : List Byte}

theorem expandPseudo_cbcdec_of_cut (h : m.length % 16 = 0 ∧ m ≠ []) : expandPseudo (.cbcdec iv m) =
    some (messageCommands (.cbcinit iv) .cbcdecb .cbcdecf (m.length / 16 - 1) m) :=
  if_pos (cutsIntoBlocks_iff.2 h)

theorem expandPseudo_ctrdec_of_cut (h : m.length % 16 = 0 ∧ m ≠ []) : expandPseudo (.ctrdec iv m) =
    some (messageCommands (.ctrinit iv) .ctrdecb .ctrdecf (m.length / 16 - 1) m) :=
  if_pos (cutsIntoBlocks_iff.2 h)

theorem not_cutsIntoBlocks (h : m.length % 16 ≠ 0 ∨ m = []) : ¬cutsIntoBlocks m = true := by
  rw [cutsIntoBlocks_iff, not_and_or, not_not]
  exact h

/-- A ciphertext that cannot be cut is refused by the host, which issues nothing (R96). -/
theorem runPseudo_cbcdec_of_not_cut (h : m.length % 16 ≠ 0 ∨ m = []) (s : State) :
    runPseudo (.cbcdec iv m) s = some (s, .error .invalidBlockLength) :=
  runPseudo_of_expandPseudo_none (by rw [expandPseudo, if_neg (not_cutsIntoBlocks h)]) s

theorem runPseudo_ctrdec_of_not_cut (h : m.length % 16 ≠ 0 ∨ m = []) (s : State) :
    runPseudo (.ctrdec iv m) s = some (s, .error .invalidBlockLength) :=
  runPseudo_of_expandPseudo_none (by rw [expandPseudo, if_neg (not_cutsIntoBlocks h)]) s

/-- The bytes after all blocks but the last are one block. -/
theorem length_drop_lastBlock (h : m.length % 16 = 0 ∧ m ≠ []) :
    16 * (m.length / 16 - 1) ≤ m.length ∧ (m.drop (16 * (m.length / 16 - 1))).length = 16 := by
  obtain ⟨hmod, hne⟩ := h
  have := List.length_pos_iff.2 hne
  rw [List.length_drop]
  omega

/-- The bytes after the full blocks are a tail. -/
theorem length_drop_fullBlocks_le : (m.drop (16 * (m.length / 16))).length ≤ 15 := by
  rw [length_drop_fullBlocks]
  omega

end

/-! ### One command, sent and answered -/

theorem operandFits_of_length_le {data : List Byte} (h : data.length ≤ 255) : operandFits data = true :=
  decide_eq_true h

/-- A command that has a request is sent, decoded and answered once. -/
theorem transact_encode {i : Instr} {s u : State} {r : Response} (hwf : i.wellFormed = true)
    (hexec : exec i s = .next (u.answer r)) (hout : u.outbox = s.outbox) :
    transact (encode i) s = some (u.answer r, r) :=
  transact_of_decode (decode_encode hwf) hexec (by rw [State.answer_outbox, hout])

section
variable {iv : List Byte} (s : State)

theorem transact_cbcinit (h : iv.length = 16) : transact (encode (.cbcinit iv)) s =
    some ((s.initCv (blockOfBytes iv)).answer (.ok []), .ok []) :=
  transact_encode (operandFits_of_length_le (by omega)) (exec_cbcinit_of_length h s) (State.initCv_outbox ..)

theorem transact_ctrinit (h : iv.length = 16) : transact (encode (.ctrinit iv)) s =
    some ((s.initCb (blockOfBytes iv)).answer (.ok []), .ok []) :=
  transact_encode (operandFits_of_length_le (by omega)) (exec_ctrinit_of_length h s) (State.initCb_outbox ..)

theorem transact_cbcinit_of_length_ne (h : iv.length ≠ 16) (h255 : iv.length ≤ 255) :
    transact (encode (.cbcinit iv)) s =
      some (s.answer (.error .invalidBlockLength), .error .invalidBlockLength) :=
  transact_encode (operandFits_of_length_le h255)
    (by rw [exec, execCbcinit, withBlock_of_length_ne h, raise]) rfl

theorem transact_ctrinit_of_length_ne (h : iv.length ≠ 16) (h255 : iv.length ≤ 255) :
    transact (encode (.ctrinit iv)) s =
      some (s.answer (.error .invalidBlockLength), .error .invalidBlockLength) :=
  transact_encode (operandFits_of_length_le h255)
    (by rw [exec, execCtrinit, withBlock_of_length_ne h, raise]) rfl

end

/-! ### Two causes of an early end: a wrong initial value and a missing schedule -/

/-- The first command's error ends a pseudo-command. -/
theorem runPseudo_of_start_error {p : Pseudo} {start : Instr} {interior final : List Byte → Instr} {n : Nat}
    {m : List Byte} {s t : State} {e : CmdError}
    (hexp : expandPseudo p = some (messageCommands start interior final n m))
    (h : transact (encode start) s = some (t, .error e)) : runPseudo p s = some (t, .error e) := by
  rw [runPseudo_of_expandPseudo hexp, messageCommands_eq, issue_cons_error h]

/-- Over operands of certain lengths a command has a request, no length error, and a need of KS_VALID. -/
def NeedsScheduleOn (legal : Nat → Prop) (command : List Byte → Instr) : Prop :=
  ∀ data, legal data.length → (command data).wellFormed = true ∧ lengthError (command data) = none ∧
    usesSchedule (command data) = true

theorem transact_of_missing_schedule {legal : Nat → Prop} {command : List Byte → Instr}
    (hcommand : NeedsScheduleOn legal command) {data : List Byte} (hdata : legal data.length) {s : State}
    (hks : s.ksValid = false) :
    transact (encode (command data)) s = some (s.answer (.error .notReady), .error .notReady) := by
  obtain ⟨hwf, hlen, huses⟩ := hcommand data hdata
  have hmissing : missingFlag (command data) s = true := by simp [missingFlag, huses, hks]
  have herr : expectedError (command data) s = some .notReady := by simp [expectedError, hlen, hmissing]
  exact transact_encode hwf (exec_of_expectedError herr) rfl

/-- The commands that carry a whole block of a message (R74, R204). -/
theorem needsScheduleOn_block {command : List Byte → Instr}
    (h : command ∈ [Instr.cbcencb, .cbcdecb, .cbcdecf, .ctrencb, .ctrdecb, .ctrdecf] := by simp) :
    NeedsScheduleOn (· = 16) command := by
  intro data hlen
  simp only [List.mem_cons, List.not_mem_nil, or_false] at h
  rcases h with rfl | rfl | rfl | rfl | rfl | rfl <;>
    exact ⟨operandFits_of_length_le (by omega), by simp [lengthError, blockOperand, tailOperand, keyOperand, hlen], rfl⟩

/-- The commands that carry a message's tail (R74, R204). -/
theorem needsScheduleOn_tail {command : List Byte → Instr}
    (h : command ∈ [Instr.cbcencf, .ctrencf] := by simp) :
    NeedsScheduleOn (· ≤ 15) command := by
  intro data hlen
  simp only [List.mem_cons, List.not_mem_nil, or_false] at h
  rcases h with rfl | rfl <;>
    exact ⟨operandFits_of_length_le (by omega), by simp [lengthError, blockOperand, tailOperand, keyOperand, hlen], rfl⟩

/-- Without a schedule the second command, an interior or the final one, ends a pseudo-command. -/
theorem runPseudo_of_missing_schedule {p : Pseudo} {start : Instr} {interior final : List Byte → Instr} {n : Nat}
    {m : List Byte} {s u : State} {legal : Nat → Prop} {payload : List Byte}
    (hexp : expandPseudo p = some (messageCommands start interior final n m))
    (hstart : transact (encode start) s = some (u, .ok payload)) (hks : u.ksValid = false)
    (hinterior : NeedsScheduleOn (· = 16) interior) (hfinal : NeedsScheduleOn legal final)
    (hn : 16 * n ≤ m.length) (hlast : legal (m.drop (16 * n)).length) :
    runPseudo p s = some (u.answer (.error .notReady), .error .notReady) := by
  rw [runPseudo_of_expandPseudo hexp, messageCommands_eq, issue_cons_ok hstart]
  cases n with
  | zero => exact issue_cons_error (transact_of_missing_schedule hfinal hlast hks)
  | succ n =>
    rw [List.range_succ_eq_map]
    exact issue_cons_error (transact_of_missing_schedule hinterior (length_piece hn n.succ_pos) hks)

section
variable {p : Pseudo} {iv : List Byte} {s : State} {interior final : List Byte → Instr} {n : Nat} {m : List Byte}
  {legal : Nat → Prop} (hlen : iv.length = 16) (hks : s.ksValid = false)
  (hinterior : NeedsScheduleOn (· = 16) interior) (hfinal : NeedsScheduleOn legal final) (hn : 16 * n ≤ m.length)
  (hlast : legal (m.drop (16 * n)).length)
include hlen hks hinterior hfinal hn hlast

/-- A CBC pseudo-command without a schedule has loaded CV when it ends. -/
theorem runPseudo_cbc_of_missing_schedule
    (hexp : expandPseudo p = some (messageCommands (.cbcinit iv) interior final n m)) :
    ∃ t, runPseudo p s = some (t, .error .notReady) ∧
      t.cv = blockOfBytes iv ∧ t.cvValid = true ∧ t.outbox = s.outbox ++ [.ok [], .error .notReady] := by
  have hks' : ((s.initCv (blockOfBytes iv)).answer (.ok [])).ksValid = false := by simp [hks]
  exact ⟨_, runPseudo_of_missing_schedule hexp (transact_cbcinit s hlen) hks' hinterior hfinal hn hlast,
    by simp, by simp, by simp⟩

/-- A CTR pseudo-command without a schedule has loaded CB when it ends. -/
theorem runPseudo_ctr_of_missing_schedule
    (hexp : expandPseudo p = some (messageCommands (.ctrinit iv) interior final n m)) :
    ∃ t, runPseudo p s = some (t, .error .notReady) ∧
      t.cb = blockOfBytes iv ∧ t.cbValid = true ∧ t.outbox = s.outbox ++ [.ok [], .error .notReady] := by
  have hks' : ((s.initCb (blockOfBytes iv)).answer (.ok [])).ksValid = false := by simp [hks]
  exact ⟨_, runPseudo_of_missing_schedule hexp (transact_ctrinit s hlen) hks' hinterior hfinal hn hlast,
    by simp, by simp, by simp⟩

end

/-- Settles O51: a list is issued command by command, so that what comes after the first error is never reached; the
particular causes are errors of the first or the second command. -/
theorem messageCommandsStopAtTheFirstError : Obligations.MessageCommandsStopAtTheFirstError := by
  refine ⟨fun before after i got g s u v e => issue_of_first_error, fun p before after i g s u v e hexp h herr => ?_,
    fun s iv m => ⟨fun h => ⟨runPseudo_cbcdec_of_not_cut h s, runPseudo_ctrdec_of_not_cut h s⟩,
      fun hlen h255 => ?_, fun hlen hks => ⟨?_, ?_⟩⟩⟩
  · rw [runPseudo_of_expandPseudo hexp, issue_of_first_error h herr]
  · have hcbc := transact_cbcinit_of_length_ne s hlen h255
    have hctr := transact_ctrinit_of_length_ne s hlen h255
    simp only [List.forall_mem_cons, List.not_mem_nil, false_imp_iff, implies_true, and_true]
    exact ⟨⟨runPseudo_of_start_error rfl hcbc, runPseudo_of_start_error rfl hctr⟩, fun hmod hne =>
      ⟨runPseudo_of_start_error (expandPseudo_cbcdec_of_cut ⟨hmod, hne⟩) hcbc,
        runPseudo_of_start_error (expandPseudo_ctrdec_of_cut ⟨hmod, hne⟩) hctr⟩⟩
  · rintro p (rfl | ⟨rfl, hcut⟩)
    · exact runPseudo_cbc_of_missing_schedule hlen hks needsScheduleOn_block needsScheduleOn_tail
        (Nat.mul_div_le ..) length_drop_fullBlocks_le rfl
    · obtain ⟨hn, hlast⟩ := length_drop_lastBlock hcut
      exact runPseudo_cbc_of_missing_schedule hlen hks needsScheduleOn_block needsScheduleOn_block hn hlast
        (expandPseudo_cbcdec_of_cut hcut)
  · rintro p (rfl | ⟨rfl, hcut⟩)
    · exact runPseudo_ctr_of_missing_schedule hlen hks needsScheduleOn_block needsScheduleOn_tail
        (Nat.mul_div_le ..) length_drop_fullBlocks_le rfl
    · obtain ⟨hn, hlast⟩ := length_drop_lastBlock hcut
      exact runPseudo_ctr_of_missing_schedule hlen hks needsScheduleOn_block needsScheduleOn_block hn hlast
        (expandPseudo_ctrdec_of_cut hcut)

end Sys2Proof.Machine
end

section
/-! PROOFS. The four pseudo-commands compute the closed forms of the modes (30_encoding.md R96, 45_padding_cbc.md R171,
46_ctr.md R188). -/

namespace Sys2Proof.Machine

/-- The cipher looks at W and NK only (R155). -/
theorem encryptUnder_congr {s t : State} (hw : t.w = s.w) (hnk : t.nk = s.nk) : encryptUnder t = encryptUnder s := by
  funext b
  rw [encryptUnder, encryptUnder, hw, hnk]

theorem decryptUnder_congr {s t : State} (hw : t.w = s.w) (hnk : t.nk = s.nk) : decryptUnder t = decryptUnder s := by
  funext b
  rw [decryptUnder, decryptUnder, hw, hnk]

/-- What a sequence of CBC commands leaves as it was: the schedule and CB. -/
structure SameButCbc (s t : State) : Prop where
  w : t.w = s.w
  nk : t.nk = s.nk
  ksValid : t.ksValid = s.ksValid
  cb : t.cb = s.cb
  cbValid : t.cbValid = s.cbValid

/-- What a sequence of CTR commands leaves as it was: the schedule and CV. -/
structure SameButCtr (s t : State) : Prop where
  w : t.w = s.w
  nk : t.nk = s.nk
  ksValid : t.ksValid = s.ksValid
  cv : t.cv = s.cv
  cvValid : t.cvValid = s.cvValid

theorem SameButCbc.answer (s : State) (r : Response) : SameButCbc s (s.answer r) := ⟨rfl, rfl, rfl, rfl, rfl⟩

theorem SameButCbc.setCv (s : State) (b : Block) (r : Response) : SameButCbc s ((s.setCv b).answer r) :=
  ⟨rfl, rfl, rfl, rfl, rfl⟩

theorem SameButCbc.initCv (s : State) (b : Block) (r : Response) : SameButCbc s ((s.initCv b).answer r) :=
  ⟨rfl, rfl, rfl, rfl, rfl⟩

theorem SameButCbc.trans {s t u : State} (h : SameButCbc s t) (h' : SameButCbc t u) : SameButCbc s u :=
  ⟨h'.w.trans h.w, h'.nk.trans h.nk, h'.ksValid.trans h.ksValid, h'.cb.trans h.cb, h'.cbValid.trans h.cbValid⟩

theorem SameButCtr.answer (s : State) (r : Response) : SameButCtr s (s.answer r) := ⟨rfl, rfl, rfl, rfl, rfl⟩

theorem SameButCtr.setCb (s : State) (b : Block) (r : Response) : SameButCtr s ((s.setCb b).answer r) :=
  ⟨rfl, rfl, rfl, rfl, rfl⟩

theorem SameButCtr.initCb (s : State) (b : Block) (r : Response) : SameButCtr s ((s.initCb b).answer r) :=
  ⟨rfl, rfl, rfl, rfl, rfl⟩

theorem SameButCtr.trans {s t u : State} (h : SameButCtr s t) (h' : SameButCtr t u) : SameButCtr s u :=
  ⟨h'.w.trans h.w, h'.nk.trans h.nk, h'.ksValid.trans h.ksValid, h'.cv.trans h.cv, h'.cvValid.trans h.cvValid⟩

/-- Block commands answer message bytes and nothing else (R76, R96). -/
theorem payloadData_of_block {i : Instr} (h : payloadForm i = .block) (payload : List Byte) :
    payloadData i payload = payload := by
  rw [payloadData, h]

/-- The count of counted bytes is no message byte (R76, R96). -/
theorem payloadData_countedBytes {i : Instr} (h : payloadForm i = .counted) (t : List Byte) :
    payloadData i (countedBytes t) = t := by
  rw [payloadData, h]
  rfl

/-- A command sent and answered with a block: its bytes are collected and the list goes on. -/
theorem issue_cons_block {i : Instr} {rest : List Instr} {got : List Byte} {s u : State} {b : Block}
    (hexec : exec i s = .next (u.answer (.ok (blockBytes b)))) (hwf : i.wellFormed = true)
    (hout : u.outbox = s.outbox := by simp) (hform : payloadForm i = .block := by rfl) :
    issue (i :: rest) got s = issue rest (got ++ blockBytes b) (u.answer (.ok (blockBytes b))) := by
  rw [issue_cons_ok (transact_encode hwf hexec hout), payloadData_of_block hform]

/-- A final command that unpads: the list's result is what unpadding gives after the bytes collected, and the command's
writes are made if that is OK. -/
theorem issue_unpadded {i : Instr} {s c : State} {d : Block} (got : List Byte)
    (hexec : exec i s = respondUnpadded false d c s) (hwf : i.wellFormed = true)
    (hout : c.outbox = s.outbox := by simp) (hform : payloadForm i = .counted := by rfl) :
    ∃ t, issue [i] got s = some (t, (unpadFinal false d).map (got ++ ·)) ∧
      ((∃ r, t = c.answer r) ∨ (∃ e, unpadFinal false d = .error e) ∧ ∃ r, t = s.answer r) := by
  rw [respondUnpadded] at hexec
  cases hunpad : unpadFinal false d with
  | ok m =>
    rw [hunpad] at hexec
    refine ⟨c.answer (.ok (countedBytes m)), ?_, .inl ⟨_, rfl⟩⟩
    rw [issue_cons_ok (transact_encode hwf hexec hout), payloadData_countedBytes hform, issue_nil, Except.map]
  | error e =>
    rw [hunpad] at hexec
    exact ⟨_, issue_cons_error (transact_encode hwf hexec rfl), .inr ⟨⟨e, rfl⟩, _, rfl⟩⟩

/-- Bytes before the last block are kept by unpadding (R161). -/
theorem unpadMessage_append (strict : Bool) (a : List Byte) {m : List Byte} (h : 16 ≤ m.length) :
    unpadMessage strict (a ++ m) = (unpadMessage strict m).map (a ++ ·) := by
  have hlast : (a ++ m).length - 16 = a.length + (m.length - 16) := by
    rw [List.length_append]
    omega
  rw [unpadMessage_eq_map, unpadMessage_eq_map, hlast, List.drop_length_add_append, List.take_length_add_append]
  cases unpadFinal strict (blockOfBytes (m.drop (m.length - 16))) with
  | ok t => simp [Except.map]
  | error e => rfl

theorem unpadMessage_blockBytes (strict : Bool) (d : Block) :
    unpadMessage strict (blockBytes d) = unpadFinal strict d := by
  rw [← List.nil_append (blockBytes d), unpadMessage_append_blockBytes]
  cases unpadFinal strict d <;> rfl

/-- Bytes collected in two goes. -/
theorem map_append_map_append (r : Except CmdError (List Byte)) (a b : List Byte) :
    (r.map (b ++ ·)).map (a ++ ·) = r.map (a ++ b ++ ·) := by
  cases r with
  | ok m => simp [Except.map]
  | error e => rfl

theorem map_nil_append (r : Except CmdError (List Byte)) : r.map ([] ++ ·) = r := by cases r <;> rfl

theorem exists_ok_of_map_eq_ok {r : Except CmdError (List Byte)} {f : List Byte → List Byte} {m : List Byte}
    (h : r.map f = .ok m) : ∃ x, r = .ok x := by
  cases r with
  | ok x => exact ⟨x, rfl⟩
  | error e => cases h

@[simp] theorem length_cbcDecryptChain (dec : Block → Block) (prev : Block) (cs : List Block) :
    (cbcDecryptChain dec prev cs).length = cs.length := by
  induction cs generalizing prev with
  | nil => rfl
  | cons c cs ih => rw [cbcDecryptChain, List.length_cons, ih, List.length_cons]

@[simp] theorem length_ctrChain (enc : Block → Block) (ctr : Block) (start : Nat) (xs : List Block) :
    (ctrChain enc ctr start xs).length = xs.length := by
  induction xs generalizing start with
  | nil => rfl
  | cons x xs ih => rw [ctrChain, List.length_cons, ih, List.length_cons]

section
variable {pieces : List (List Byte)} (hpieces : ∀ p ∈ pieces, p.length = 16)
include hpieces

/-- The commands that carry a message through CBC encryption answer the chain from the chaining value held. -/
theorem issue_cbcenc {tail : List Byte} (htail : tail.length ≤ 15) (got : List Byte) {s : State}
    (hks : s.ksValid = true) (hcv : s.cvValid = true) :
    ∃ t, issue (pieces.map .cbcencb ++ [.cbcencf tail]) got s = some (t, .ok (got ++ bytesOf
        (cbcEncryptChain (encryptUnder s) s.cv (pieces.map blockOfBytes ++ [blockOfBytes (padFinal tail)])))) ∧
      SameButCbc s t := by
  induction pieces generalizing got s with
  | nil =>
    refine ⟨_, ?_, SameButCbc.setCv s (cbcEncryptBlock s (blockOfBytes (padFinal tail)))
      (.ok (blockBytes (cbcEncryptBlock s (blockOfBytes (padFinal tail)))))⟩
    rw [List.map_nil, List.nil_append, issue_cons_block (exec_cbcencf_of_length hks hcv htail)
        (operandFits_of_length_le (by omega)), issue_nil, List.map_nil, List.nil_append,
      cbcEncryptChain, cbcEncryptChain, bytesOf_cons, bytesOf_nil, List.append_nil, cbcEncryptBlock]
  | cons p pieces ih =>
    obtain ⟨hp, hrest⟩ := List.forall_mem_cons.1 hpieces
    have hsame := SameButCbc.setCv s (cbcEncryptBlock s (blockOfBytes p))
      (.ok (blockBytes (cbcEncryptBlock s (blockOfBytes p))))
    obtain ⟨t, ht, htsame⟩ := ih hrest (got ++ blockBytes (cbcEncryptBlock s (blockOfBytes p)))
      (hsame.ksValid.trans hks) (by rw [State.answer_cvValid, State.setCv_cvValid, hcv])
    refine ⟨t, ?_, hsame.trans htsame⟩
    rw [List.map_cons, List.cons_append, issue_cons_block (exec_cbcencb_of_length hks hcv hp)
        (operandFits_of_length_le (by omega)), ht, encryptUnder_congr hsame.w hsame.nk,
      List.map_cons, List.cons_append, cbcEncryptChain, bytesOf_cons, List.append_assoc, State.answer_cv,
      State.setCv_cv, cbcEncryptBlock]

/-- The commands that carry a message through CBC decryption answer the chain from the chaining value held,
unpadded. -/
theorem issue_cbcdec {last : List Byte} (hlast : last.length = 16) (got : List Byte) {s : State}
    (hks : s.ksValid = true) (hcv : s.cvValid = true) :
    ∃ t, issue (pieces.map .cbcdecb ++ [.cbcdecf last]) got s = some (t, (unpadMessage false (bytesOf
        (cbcDecryptChain (decryptUnder s) s.cv (pieces.map blockOfBytes ++ [blockOfBytes last])))).map (got ++ ·)) ∧
      SameButCbc s t := by
  induction pieces generalizing got s with
  | nil =>
    obtain ⟨t, ht, hframe⟩ := issue_unpadded got (exec_cbcdecf_of_length hks hcv hlast)
        (operandFits_of_length_le (by omega))
    refine ⟨t, ?_, ?_⟩
    · rw [List.map_nil, List.nil_append, ht, List.map_nil, List.nil_append, cbcDecryptChain, cbcDecryptChain,
        bytesOf_cons, bytesOf_nil, List.append_nil, unpadMessage_blockBytes, cbcDecryptBlock]
    · obtain ⟨r, rfl⟩ | ⟨-, r, rfl⟩ := hframe
      · exact .setCv s _ r
      · exact .answer s r
  | cons p pieces ih =>
    obtain ⟨hp, hrest⟩ := List.forall_mem_cons.1 hpieces
    have hsame := SameButCbc.setCv s (blockOfBytes p) (.ok (blockBytes (cbcDecryptBlock s (blockOfBytes p))))
    obtain ⟨t, ht, htsame⟩ := ih hrest (got ++ blockBytes (cbcDecryptBlock s (blockOfBytes p)))
      (hsame.ksValid.trans hks) (by rw [State.answer_cvValid, State.setCv_cvValid, hcv])
    refine ⟨t, ?_, hsame.trans htsame⟩
    rw [List.map_cons, List.cons_append, issue_cons_block (exec_cbcdecb_of_length hks hcv hp)
        (operandFits_of_length_le (by omega)), ht, decryptUnder_congr hsame.w hsame.nk,
      List.map_cons, List.cons_append, cbcDecryptChain, bytesOf_cons, unpadMessage_append _ _ (by simp),
      map_append_map_append, State.answer_cv, State.setCv_cv, cbcDecryptBlock]

section
variable {ctr : Block} {start : Nat} {s : State}

/-- The commands that carry a message through CTR encryption answer the chain from the counter held. -/
theorem issue_ctrenc {tail : List Byte} (htail : tail.length ≤ 15) (got : List Byte) (hks : s.ksValid = true)
    (hcb : s.cbValid = true) (hctr : s.cb = counterAt ctr start) :
    ∃ t, issue (pieces.map .ctrencb ++ [.ctrencf tail]) got s = some (t, .ok (got ++ bytesOf
        (ctrChain (encryptUnder s) ctr start (pieces.map blockOfBytes ++ [blockOfBytes (padFinal tail)])))) ∧
      t.cb = counterAt ctr (start + pieces.length + 1) ∧ SameButCtr s t := by
  induction pieces generalizing got s start with
  | nil =>
    refine ⟨_, ?_, ?_, SameButCtr.setCb s (inc32 s.cb)
      (.ok (blockBytes (ctrBlock s (blockOfBytes (padFinal tail)))))⟩
    · rw [List.map_nil, List.nil_append, issue_cons_block (exec_ctrencf_eq_ctrBlock hks hcb htail)
        (operandFits_of_length_le (by omega)), issue_nil, List.map_nil, List.nil_append,
        ctrChain, ctrChain, bytesOf_cons, bytesOf_nil, List.append_nil, ctrBlock, ← hctr]
    · rw [State.answer_cb, State.setCb_cb, hctr]
      rfl
  | cons p pieces ih =>
    obtain ⟨hp, hrest⟩ := List.forall_mem_cons.1 hpieces
    have hsame := SameButCtr.setCb s (inc32 s.cb) (.ok (blockBytes (ctrBlock s (blockOfBytes p))))
    obtain ⟨t, ht, htctr, htsame⟩ := ih hrest (got ++ blockBytes (ctrBlock s (blockOfBytes p)))
      (start := start + 1) (hsame.ksValid.trans hks) (by rw [State.answer_cbValid, State.setCb_cbValid, hcb])
      (by rw [State.answer_cb, State.setCb_cb, hctr, counterAt])
    refine ⟨t, ?_, ?_, hsame.trans htsame⟩
    · rw [List.map_cons, List.cons_append, issue_cons_block (exec_ctrencb_eq_ctrBlock hks hcb hp)
        (operandFits_of_length_le (by omega)), ht, encryptUnder_congr hsame.w hsame.nk,
        List.map_cons, List.cons_append, ctrChain, bytesOf_cons, List.append_assoc, ctrBlock, ← hctr]
    · exact htctr.trans (congrArg (counterAt ctr) (by rw [List.length_cons]; omega))

/-- The commands that carry a message through CTR decryption answer the chain from the counter held, unpadded. -/
theorem issue_ctrdec {last : List Byte} (hlast : last.length = 16) (got : List Byte) (hks : s.ksValid = true)
    (hcb : s.cbValid = true) (hctr : s.cb = counterAt ctr start) :
    ∃ t, issue (pieces.map .ctrdecb ++ [.ctrdecf last]) got s = some (t, (unpadMessage false (bytesOf
        (ctrChain (encryptUnder s) ctr start (pieces.map blockOfBytes ++ [blockOfBytes last])))).map (got ++ ·)) ∧
      (∀ r, unpadMessage false (bytesOf
          (ctrChain (encryptUnder s) ctr start (pieces.map blockOfBytes ++ [blockOfBytes last]))) = .ok r →
        t.cb = counterAt ctr (start + pieces.length + 1)) ∧ SameButCtr s t := by
  induction pieces generalizing got s start with
  | nil =>
    obtain ⟨t, ht, hframe⟩ := issue_unpadded got (exec_ctrdecf_of_length hks hcb hlast)
        (operandFits_of_length_le (by omega))
    rw [List.map_nil, List.nil_append, List.map_nil, List.nil_append, ctrChain, ctrChain, bytesOf_cons, bytesOf_nil,
      List.append_nil, unpadMessage_blockBytes, ← hctr, ← ctrBlock]
    refine ⟨t, ht, fun m hok => ?_, ?_⟩
    · obtain ⟨r, rfl⟩ | ⟨⟨e, he⟩, -⟩ := hframe
      · rw [State.answer_cb, State.setCb_cb, hctr]
        rfl
      · rw [he] at hok
        cases hok
    · obtain ⟨r, rfl⟩ | ⟨-, r, rfl⟩ := hframe
      · exact .setCb s _ r
      · exact .answer s r
  | cons p pieces ih =>
    obtain ⟨hp, hrest⟩ := List.forall_mem_cons.1 hpieces
    have hsame := SameButCtr.setCb s (inc32 s.cb) (.ok (blockBytes (ctrBlock s (blockOfBytes p))))
    obtain ⟨t, ht, htctr, htsame⟩ := ih hrest (got ++ blockBytes (ctrBlock s (blockOfBytes p)))
      (start := start + 1) (hsame.ksValid.trans hks) (by rw [State.answer_cbValid, State.setCb_cbValid, hcb])
      (by rw [State.answer_cb, State.setCb_cb, hctr, counterAt])
    rw [encryptUnder_congr hsame.w hsame.nk] at ht htctr
    rw [List.map_cons (f := blockOfBytes), List.cons_append, ctrChain, bytesOf_cons,
      unpadMessage_append _ _ (by simp)]
    refine ⟨t, ?_, fun m hok => ?_, hsame.trans htsame⟩
    · rw [List.map_cons, List.cons_append, issue_cons_block (exec_ctrdecb_eq_ctrBlock hks hcb hp)
        (operandFits_of_length_le (by omega)), ht, map_append_map_append, ctrBlock, hctr]
    · obtain ⟨r, hr⟩ := exists_ok_of_map_eq_ok hok
      exact (htctr r hr).trans (congrArg (counterAt ctr) (by rw [List.length_cons]; omega))

end

end

section
variable {m : List Byte} {n : Nat} (h : 16 * n ≤ m.length)
include h

theorem length_of_mem_pieces : ∀ p ∈ (List.range n).map (piece m), p.length = 16 := by
  simp only [List.forall_mem_map, List.mem_range]
  exact fun k hk => length_piece h hk

end

theorem map_blockOfBytes_pieces (m : List Byte) (n : Nat) :
    ((List.range n).map (piece m)).map blockOfBytes = (List.range n).map (blockNumber m) := List.map_map

/-- The blocks of a ciphertext: all but the last, and the last (R96). -/
theorem blocksOf_of_cut {m : List Byte} (h : m.length % 16 = 0 ∧ m ≠ []) : blocksOf m =
    (List.range (m.length / 16 - 1)).map (blockNumber m) ++ [blockOfBytes (m.drop (16 * (m.length / 16 - 1)))] := by
  obtain ⟨hn, hlast⟩ := length_drop_lastBlock h
  rw [← blocksOf_take_append hn hlast, List.take_append_drop]

/-- After the initialisation, which carries no message bytes, a pseudo-command goes on with the message. -/
theorem runPseudo_of_start_ok {p : Pseudo} {start : Instr} {interior final : List Byte → Instr} {n : Nat}
    {m : List Byte} {s u : State} (hexp : expandPseudo p = some (messageCommands start interior final n m))
    (hstart : transact (encode start) s = some (u, .ok [])) (hform : payloadForm start = .none) :
    runPseudo p s = issue (((List.range n).map (piece m)).map interior ++ [final (m.drop (16 * n))]) [] u := by
  rw [runPseudo_of_expandPseudo hexp, messageCommands_eq, issue_cons_ok hstart, payloadData, hform]
  rfl

section
variable {s : State} {iv m : List Byte} (hks : s.ksValid = true) (hiv : iv.length = 16)
include hks hiv

theorem runPseudo_cbcenc : ∃ t,
    runPseudo (.cbcenc iv m) s = some (t, .ok (cbcEncryptMessage (encryptUnder s) (blockOfBytes iv) m)) ∧
      SameButCbc s t := by
  have hinit := SameButCbc.initCv s (blockOfBytes iv) (.ok [])
  obtain ⟨t, ht, hsame⟩ := issue_cbcenc (length_of_mem_pieces (Nat.mul_div_le m.length 16))
    length_drop_fullBlocks_le [] (hinit.ksValid.trans hks) rfl
  refine ⟨t, ?_, hinit.trans hsame⟩
  rw [runPseudo_of_start_ok rfl (transact_cbcinit s hiv) rfl, ht, encryptUnder_congr hinit.w hinit.nk,
    map_blockOfBytes_pieces, ← blocksOf_padMessage, List.nil_append, State.answer_cv, State.initCv_cv,
    cbcEncryptMessage]

theorem runPseudo_cbcdec (hcut : m.length % 16 = 0 ∧ m ≠ []) : ∃ t,
    runPseudo (.cbcdec iv m) s = some (t, cbcDecryptMessage false (decryptUnder s) (blockOfBytes iv) m) ∧
      SameButCbc s t := by
  have hinit := SameButCbc.initCv s (blockOfBytes iv) (.ok [])
  obtain ⟨hn, hlast⟩ := length_drop_lastBlock hcut
  obtain ⟨t, ht, hsame⟩ := issue_cbcdec (length_of_mem_pieces hn) hlast [] (hinit.ksValid.trans hks) rfl
  refine ⟨t, ?_, hinit.trans hsame⟩
  rw [runPseudo_of_start_ok (expandPseudo_cbcdec_of_cut hcut) (transact_cbcinit s hiv) rfl, ht,
    decryptUnder_congr hinit.w hinit.nk, map_blockOfBytes_pieces, ← blocksOf_of_cut hcut, State.answer_cv,
    State.initCv_cv, cbcDecryptMessage, map_nil_append]

theorem runPseudo_ctrenc : ∃ t,
    runPseudo (.ctrenc iv m) s = some (t, .ok (ctrEncryptMessage (encryptUnder s) (blockOfBytes iv) m)) ∧
      t.cb = counterAt (blockOfBytes iv) (m.length / 16 + 1) ∧ SameButCtr s t := by
  have hinit := SameButCtr.initCb s (blockOfBytes iv) (.ok [])
  obtain ⟨t, ht, hctr, hsame⟩ := issue_ctrenc (length_of_mem_pieces (Nat.mul_div_le m.length 16))
    (ctr := blockOfBytes iv) (start := 0) length_drop_fullBlocks_le [] (hinit.ksValid.trans hks) rfl
    (by rw [State.answer_cb, State.initCb_cb, counterAt])
  refine ⟨t, ?_, ?_, hinit.trans hsame⟩
  · rw [runPseudo_of_start_ok rfl (transact_ctrinit s hiv) rfl, ht, encryptUnder_congr hinit.w hinit.nk,
      map_blockOfBytes_pieces, ← blocksOf_padMessage, List.nil_append, ctrEncryptMessage]
  · rw [hctr, List.length_map, List.length_range, Nat.zero_add]

theorem runPseudo_ctrdec (hcut : m.length % 16 = 0 ∧ m ≠ []) : ∃ t,
    runPseudo (.ctrdec iv m) s = some (t, ctrDecryptMessage false (encryptUnder s) (blockOfBytes iv) m) ∧
      (∀ r, ctrDecryptMessage false (encryptUnder s) (blockOfBytes iv) m = .ok r →
        t.cb = counterAt (blockOfBytes iv) (m.length / 16)) ∧ SameButCtr s t := by
  have hinit := SameButCtr.initCb s (blockOfBytes iv) (.ok [])
  obtain ⟨hn, hlast⟩ := length_drop_lastBlock hcut
  obtain ⟨t, ht, hctr, hsame⟩ := issue_ctrdec (length_of_mem_pieces hn) (ctr := blockOfBytes iv) (start := 0) hlast []
    (hinit.ksValid.trans hks) rfl (by rw [State.answer_cb, State.initCb_cb, counterAt])
  rw [encryptUnder_congr hinit.w hinit.nk, map_blockOfBytes_pieces, ← blocksOf_of_cut hcut, ← ctrDecryptMessage]
    at ht hctr
  refine ⟨t, ?_, fun r hr => ?_, hinit.trans hsame⟩
  · rw [runPseudo_of_start_ok (expandPseudo_ctrdec_of_cut hcut) (transact_ctrinit s hiv) rfl, ht, map_nil_append]
  · have hcount : 0 + (m.length / 16 - 1) + 1 = m.length / 16 := by
      rw [List.length_drop] at hlast
      omega
    rw [hctr r hr, List.length_map, List.length_range, hcount]

end

/-- Settles O49: the commands answer the blocks of the chain in turn, whose chaining value CV holds; nothing else is
written. -/
theorem cbcCommandsComputeTheMessage : Obligations.CbcCommandsComputeTheMessage := by
  refine fun s iv m hks hiv => ⟨?_, fun hcut => ?_, fun h => runPseudo_cbcdec_of_not_cut h s⟩
  · obtain ⟨t, ht, hsame⟩ := runPseudo_cbcenc (m := m) hks hiv
    exact ⟨t, ht, hsame.w, hsame.nk, hsame.ksValid.trans hks, hsame.cb, hsame.cbValid⟩
  · obtain ⟨t, ht, hsame⟩ := runPseudo_cbcdec hks hiv hcut
    exact ⟨t, ht, hsame.w, hsame.nk, hsame.ksValid.trans hks, hsame.cb, hsame.cbValid⟩

/-- Settles O50: the commands answer the blocks of the chain in turn, whose counter CB holds; nothing else is
written. -/
theorem ctrCommandsComputeTheMessage : Obligations.CtrCommandsComputeTheMessage := by
  refine fun s ctr m hks hctr => ⟨?_, fun hcut => ?_, fun h => runPseudo_ctrdec_of_not_cut h s⟩
  · obtain ⟨t, ht, hcb, hsame⟩ := runPseudo_ctrenc (m := m) hks hctr
    exact ⟨t, ht, hcb, hsame.w, hsame.nk, hsame.ksValid.trans hks, hsame.cv, hsame.cvValid⟩
  · obtain ⟨t, ht, hcb, hsame⟩ := runPseudo_ctrdec hks hctr hcut
    exact ⟨t, ht, hcb, hsame.w, hsame.nk, hsame.ksValid.trans hks, hsame.cv, hsame.cvValid⟩

end Sys2Proof.Machine
end
